-- ==== Sys2Proof/Word.lean ====
section
/-! DEFINITION. The word types of the hardware (00_scope.md R8, R11 to R13): all values are unsigned. -/

namespace Sys2Proof

/-- A memory byte or a V register (R8, R21, R50). -/
abbrev Byte := BitVec 8

/-- A 16-bit quantity: an instruction word, `I`, `PC` or a stack entry (R8, R80). -/
abbrev Word := BitVec 16

/-- The 12-bit address literal `nnn` (R13). -/
abbrev Addr12 := BitVec 12

/-- The number of one of the 16 registers, or of one of the 16 hex keys (R8, R21). -/
abbrev RegIdx := Fin 16

end Sys2Proof
end

