-- ==== Sys2Proof/Config.lean ====
section
/-! DEFINITION. What the host fixes for a run (00_scope.md R9, R10; 10_state.md R35, R36) and the free values, which
the spec leaves open. The free values are opaque constants with no body: nothing can be proved about which value they
have. -/

namespace Sys2Proof

/-- The display collaborator's pixel array `FB[px][py]`, px in 0 to 63, py in 0 to 31 (R39): a column of 32 pixels for
each px. -/
abbrev Display := Vector (Vector Bool 32) 64

/-- The 16 glyphs of 5 bytes each of the parameter `FONT` (R10, R52). -/
abbrev Font := Vector (Vector Byte 5) 16

/-- The configuration of a run, supplied before the first cycle and immutable during it (R9, R35, R36, R246). -/
structure Config where
  /-- `Q_LOGIC`, "reset-VF-on-logic": 8xy1, 8xy2, 8xy3 force VF to 0. -/
  qLogic : Bool
  /-- `Q_SHIFT`, "shift-uses-vy": 8xy6, 8xyE shift Vy instead of Vx. -/
  qShift : Bool
  /-- `Q_JUMP`, "jump-offset-uses-vx": Bnnn is read as Bxnn. -/
  qJump : Bool
  /-- `Q_LOADSTORE`, "load-store-increments-i": Fx55, Fx65 add x+1 to I. -/
  qLoadStore : Bool
  /-- `F`, the cycle frequency in Hz. -/
  freq : Nat
  /-- `FONT`, the bytes memory holds at `0x000` to `0x04F` after reset. -/
  font : Font
deriving DecidableEq, Repr

namespace Config

/-- FREE VALUE (log 4): the display content at reset, which the spec leaves unspecified (R41, D15, U10). -/
opaque displayAtReset : Display

/-- FREE VALUE (log 5): the key sample `K` of a cycle for which the host has supplied no input, by the number of the
cycle (R38, R113). -/
opaque keySample : Nat → BitVec 16

/-- FREE VALUE (log 5): the byte `Rand8()` delivers in a cycle for which the host has supplied no input (R163, R249,
D20). -/
opaque randomByte : Nat → BitVec 8

/-- FREE VALUE (log 5): the choice `KeyAny()` makes among the keys that are down in a cycle for which the host has
supplied no input (R212, D9). -/
opaque keyChoice : Nat → BitVec 4

end Config

end Sys2Proof
end

