-- ==== Sys2Proof/Machine/Defaults.lean ====
section
/-! DEFINITION. The configuration a machine has until the host supplies one (00_scope.md R9, R10). The default value of
the parameter `FONT` is the table of 20_memory.md R53 (D1). PRESUMED (log 3): the spec marks its 80 bytes as general
knowledge, not the source's. No rule of the machine depends on a glyph's shape. -/

namespace Sys2Proof.Machine

/-- Glyphs 0 to 7 of the default font. -/
def glyphsLow : Vector (Vector Byte 5) 8 :=
  #v[#v[0xF0, 0x90, 0x90, 0x90, 0xF0], #v[0x20, 0x60, 0x20, 0x20, 0x70],
     #v[0xF0, 0x10, 0xF0, 0x80, 0xF0], #v[0xF0, 0x10, 0xF0, 0x10, 0xF0],
     #v[0x90, 0x90, 0xF0, 0x10, 0x10], #v[0xF0, 0x80, 0xF0, 0x10, 0xF0],
     #v[0xF0, 0x80, 0xF0, 0x90, 0xF0], #v[0xF0, 0x10, 0x20, 0x40, 0x40]]

/-- Glyphs 8 to F of the default font. -/
def glyphsHigh : Vector (Vector Byte 5) 8 :=
  #v[#v[0xF0, 0x90, 0xF0, 0x90, 0xF0], #v[0xF0, 0x90, 0xF0, 0x10, 0xF0],
     #v[0xF0, 0x90, 0xF0, 0x90, 0x90], #v[0xE0, 0x90, 0xE0, 0x90, 0xE0],
     #v[0xF0, 0x80, 0x80, 0x80, 0xF0], #v[0xE0, 0x90, 0x90, 0x90, 0xE0],
     #v[0xF0, 0x80, 0xF0, 0x80, 0xF0], #v[0xF0, 0x80, 0xF0, 0x80, 0x80]]

/-- The default font table of R53. -/
def defaultFont : Font := glyphsLow ++ glyphsHigh

/-- The source's default `F` (R9; log 2), the default `FONT` (log 3), and, DESIGN CHOICE (log 1), every quirk flag false:
the spec gives no default for the flags (D2), and no statement rests on their values here. -/
def defaultConfig : Config where
  qLogic := false
  qShift := false
  qJump := false
  qLoadStore := false
  freq := 500
  font := defaultFont

end Sys2Proof.Machine
end

