-- ==== Sys2Proof/Machine/Memory.lean ====
section
/-! DEFINITION. The memory `MEM` (20_memory.md R50): 4096 byte cells, held as the list of the cells that differ from
their content at reset, in one canonical form. These operations are the bare cells; the range check of R55 stands in
Machine/Ops.lean. -/

namespace Sys2Proof.Machine

/-- The cells that differ from their reset content, by rising address. -/
abbrev Memory := List Host.Cell

/-- What an address that no cell is listed for reads as: the reset content, glyph d of `FONT` at d*5 to d*5+4 and zero
from `0x050` up (R52, R69). -/
def Memory.unlisted (font : Font) (a : Nat) : Byte :=
  if h : a < 80 then (font[a / 5]'(by omega))[a % 5]'(by omega) else 0

/-- The byte listed for an address. -/
def Memory.lookup (a : Nat) : Memory → Option Byte
  | [] => none
  | (k, b) :: m => if a = k then some b else Memory.lookup a m

/-- `MEM[a]` (R14). -/
def Memory.read (font : Font) (m : Memory) (a : Nat) : Byte :=
  (Memory.lookup a m).getD (Memory.unlisted font a)

/-- List a cell at its place. -/
def Memory.insert (a : Nat) (b : Byte) : Memory → Memory
  | [] => [(a, b)]
  | (k, c) :: m =>
    if a < k then (a, b) :: (k, c) :: m
    else if a = k then (a, b) :: m
    else (k, c) :: Memory.insert a b m

/-- `MEM[a] <- b` (R14): a cell that returns to its reset content is no longer listed. -/
def Memory.write (font : Font) (m : Memory) (a : Nat) (b : Byte) : Memory :=
  if b = Memory.unlisted font a then m.filter (fun c => c.1 ≠ a) else Memory.insert a b m

/-- The canonical form: addresses strictly rising, none above `0xFFF`, and no cell equal to its reset content. -/
abbrev Memory.wf (font : Font) (m : Memory) : Prop :=
  m.Pairwise (fun c d => c.1 < d.1) ∧ ∀ c ∈ m, c.1 ≤ 0xFFF ∧ c.2 ≠ Memory.unlisted font c.1

end Sys2Proof.Machine
end

