-- ==== Sys2Proof/Machine/State.lean ====
section
/-! DEFINITION. The state of the machine (10_state.md R20), the kinds of fault (60_exceptions.md R230), the reasons a
step can stop, and the state after reset (R41, R260). -/

namespace Sys2Proof.Machine

/-- The six kinds of fault with the info each records (R230). Entering one is a NEXT state with `HALT` set (R237). -/
inductive FaultKind where
  /-- Code 1: an access above `0xFFF`, with the failing address (R231). -/
  | addressOutOfRange (addr : Nat)
  /-- Code 2: a byte write outside 0 to 255; unreachable, the data path has 8 bits (R232). -/
  | valueOutOfRange (value : Nat)
  /-- Code 3: the fetched word matches no row, with the word (R233). -/
  | unknownOpcode (op : Word)
  /-- Code 4: `2nnn` with 16 entries on the stack (R234). -/
  | stackOverflow
  /-- Code 5: a field mask other than the six; unreachable, the masks are fixed wiring (R235). -/
  | invalidMask (mask : Word)
  /-- Code 6: `00EE` with an empty stack (R236). -/
  | stackUnderflow
deriving DecidableEq, Repr

/-- The register `HALT` (R37). -/
inductive Halt where
  | running
  | faulted (kind : FaultKind)
deriving DecidableEq, Repr

/-- What the environment supplies to one cycle: the arguments of `Step(K, draws)` (R117). -/
structure CycleInput where
  /-- `K`: bit k is 1 when hex key k is down (R38, R113). -/
  keys : BitVec 16
  /-- The byte `Rand8()` delivers if this cycle executes `Cxkk` (R163, R249). -/
  draw : Byte
  /-- The key `KeyAny()` chooses if it is down (R212, D9; log 6). -/
  pick : RegIdx
deriving DecidableEq, Repr

/-- The state of R20, and the model's own fields, which hold the environment's inputs and outputs as plain data. -/
structure State where
  /-- `V[0]` to `V[15]`; `VF` is `V[15]` (R21, R23). -/
  v : Vector Byte 16
  /-- `I` (R24). -/
  i : Word
  /-- `PC` (R26). -/
  pc : Word
  /-- `SP` (R29). -/
  sp : Byte
  /-- `STACK`, the top first (R30). -/
  stack : List Word
  /-- `DT` (R32). -/
  dt : Byte
  /-- `ST` (R33). -/
  st : Byte
  /-- `TICK` (R34). -/
  tick : Nat
  /-- `MEM` (R50). -/
  mem : Memory
  /-- The quirk flags, `F` and `FONT` (R9, R10, R35, R36). -/
  cfg : Config
  /-- `HALT` (R37). -/
  halt : Halt
  /-- `FB`, the display device's pixels (R39). -/
  fb : Display
  /-- The model's own: the render requests sent so far (R201, R247; log 17). -/
  renders : Nat
  /-- This cycle's inputs, `K` among them (R38, R113). -/
  input : CycleInput
  /-- The model's own: inputs the host has supplied for the coming cycles (R117; log 5). -/
  inputs : List CycleInput
  /-- The model's own: counts cycles, so that a cycle with no supplied input reads fresh free values (log 5). -/
  cycle : Nat
deriving DecidableEq, Repr

/-- How a step can stop with a fault. -/
inductive Fault where
  /-- Raised by `step`, and by nothing else, on a machine that has already faulted: it takes no further step (R119,
  R239). Safe: the model stops where the hardware does. -/
  | halted (kind : FaultKind)
deriving DecidableEq, Repr

/-- How a step can be refused. -/
inductive Refusal where
  /-- An instruction with no meaning yet; raised by no arm. Safe. -/
  | notModelled (mnemonic : String)
  /-- Raised by `step` under a configuration with `F` below 60, which the spec says a model refuses (R10, D4, U5; log
  8). Safe: no behaviour is claimed. -/
  | frequencyBelowSixty (freq : Nat)
deriving DecidableEq, Repr

/-- The outcome of a step or of an instruction. -/
abbrev Result := Host.Outcome State Fault Refusal

/-- The state after reset, before the host loads a program (R41, R260). -/
def State.reset : State where
  v := Vector.replicate 16 0
  i := 0
  pc := 0x200
  sp := 0
  stack := []
  dt := 0
  st := 0
  tick := 0
  mem := []
  cfg := defaultConfig
  halt := .running
  fb := Config.displayAtReset
  renders := 0
  input := { keys := 0, draw := 0, pick := 0 }
  inputs := []
  cycle := 0

end Sys2Proof.Machine
end

