-- ==== Sys2Proof/Syntax.lean ====
section
/-! DEFINITION. The 35 instructions of the opcode map (30_encoding.md R90), one constructor per row of
spec/opcode_table.json, named after R98. Register fields are register numbers, `kk` is a byte literal, `nnn` a 12-bit
literal, `n` a count of rows. -/

namespace Sys2Proof

/-- One instruction. -/
inductive Instr where
  /-- `00E0` CLS (R200). -/
  | cls
  /-- `00EE` RET (R131). -/
  | ret
  /-- `0nnn` SYS nnn, every word of family 0 but `00E0` and `00EE` (R85, R132). -/
  | sys (nnn : Addr12)
  /-- `1nnn` JP nnn (R133). -/
  | jp (nnn : Addr12)
  /-- `2nnn` CALL nnn (R134). -/
  | call (nnn : Addr12)
  /-- `3xkk` SE Vx, kk (R135). -/
  | seImm (x : RegIdx) (kk : Byte)
  /-- `4xkk` SNE Vx, kk (R136). -/
  | sneImm (x : RegIdx) (kk : Byte)
  /-- `5xy0` SE Vx, Vy (R137). -/
  | seReg (x y : RegIdx)
  /-- `9xy0` SNE Vx, Vy (R138). -/
  | sneReg (x y : RegIdx)
  /-- `6xkk` LD Vx, kk (R152). -/
  | ldImm (x : RegIdx) (kk : Byte)
  /-- `7xkk` ADD Vx, kk (R153). -/
  | addImm (x : RegIdx) (kk : Byte)
  /-- `8xy0` LD Vx, Vy (R154). -/
  | ldReg (x y : RegIdx)
  /-- `8xy1` OR Vx, Vy (R155). -/
  | orReg (x y : RegIdx)
  /-- `8xy2` AND Vx, Vy (R156). -/
  | andReg (x y : RegIdx)
  /-- `8xy3` XOR Vx, Vy (R157). -/
  | xorReg (x y : RegIdx)
  /-- `8xy4` ADD Vx, Vy (R158). -/
  | addReg (x y : RegIdx)
  /-- `8xy5` SUB Vx, Vy (R159). -/
  | sub (x y : RegIdx)
  /-- `8xy6` SHR Vx, Vy (R161). -/
  | shr (x y : RegIdx)
  /-- `8xy7` SUBN Vx, Vy (R160). -/
  | subn (x y : RegIdx)
  /-- `8xyE` SHL Vx, Vy (R162). -/
  | shl (x y : RegIdx)
  /-- `Annn` LD I, nnn (R180). -/
  | ldI (nnn : Addr12)
  /-- `Bnnn` JP V0, nnn; with `Q_JUMP` its 12 bits are read as x and kk (R94, R139). -/
  | jpOff (nnn : Addr12)
  /-- `Cxkk` RND Vx, kk (R163). -/
  | rnd (x : RegIdx) (kk : Byte)
  /-- `Dxyn` DRW Vx, Vy, n (R201). -/
  | drw (x y : RegIdx) (n : Fin 16)
  /-- `Ex9E` SKP Vx (R210). -/
  | skp (x : RegIdx)
  /-- `ExA1` SKNP Vx (R211). -/
  | sknp (x : RegIdx)
  /-- `Fx07` LD Vx, DT (R213). -/
  | ldFromDt (x : RegIdx)
  /-- `Fx15` LD DT, Vx (R214). -/
  | ldDt (x : RegIdx)
  /-- `Fx18` LD ST, Vx (R215). -/
  | ldSt (x : RegIdx)
  /-- `Fx0A` LD Vx, K (R212). -/
  | ldKey (x : RegIdx)
  /-- `Fx1E` ADD I, Vx (R181). -/
  | addI (x : RegIdx)
  /-- `Fx29` LD F, Vx (R182). -/
  | ldFont (x : RegIdx)
  /-- `Fx33` LD B, Vx (R183). -/
  | ldBcd (x : RegIdx)
  /-- `Fx55` LD [I], Vx (R184). -/
  | stRegs (x : RegIdx)
  /-- `Fx65` LD Vx, [I] (R185). -/
  | ldRegs (x : RegIdx)
deriving DecidableEq, Repr

end Sys2Proof
end

