-- ==== Sys2Proof/WellFormed.lean ====
section
/-! DEFINITION. The instructions that have a word of their own. The fields' ranges are in their types (R13, R21, C4);
the one relation left to check is the opcode map's exclusion: `0nnn` is no row for the words `0x00E0` and `0x00EE`,
which are CLS and RET (30_encoding.md R85, row 3 of opcode_table.json). -/

namespace Sys2Proof

/-- Whether the instruction is one that a word of the instruction set decodes to. -/
def Instr.wf : Instr → Bool
  | .sys nnn => nnn != 0x0E0#12 && nnn != 0x0EE#12
  | .cls | .ret | .jp _ | .call _ => true
  | .seImm _ _ | .sneImm _ _ | .seReg _ _ | .sneReg _ _ => true
  | .ldImm _ _ | .addImm _ _ | .ldReg _ _ | .orReg _ _ | .andReg _ _ | .xorReg _ _ => true
  | .addReg _ _ | .sub _ _ | .shr _ _ | .subn _ _ | .shl _ _ => true
  | .ldI _ | .jpOff _ | .rnd _ _ | .drw _ _ _ => true
  | .skp _ | .sknp _ | .ldFromDt _ | .ldDt _ | .ldSt _ | .ldKey _ => true
  | .addI _ | .ldFont _ | .ldBcd _ | .stRegs _ | .ldRegs _ => true

end Sys2Proof
end

