-- ==== Sys2Proof/Decode.lean ====
section
/-! DEFINITION. The decoder and the encoder (30_encoding.md): the six fields, the two-level dispatch by the patterns of
the opcode map taken literally (R84 to R90, R98, C2, log 11), the opcode map itself as masks and patterns, and the words
of the six formats. -/

namespace Sys2Proof

/-- Why bits are not an instruction. -/
inductive DecodeError where
  /-- The word matches no row of the opcode map (R91). -/
  | unknownOpcode (op : Word)
  /-- Fewer than the two bytes every instruction has (R80). -/
  | truncated
  /-- A field mask other than the six (R97); only `extractField` answers so. -/
  | invalidMask (mask : Word)
deriving DecidableEq, Repr

/-! ### Fields (R13, R82) -/

/-- `top = op[15:12]`. -/
def topOf (op : Word) : BitVec 4 := op.extractLsb' 12 4

/-- `nnn = op[11:0]`. -/
def nnnOf (op : Word) : Addr12 := op.extractLsb' 0 12

/-- `kk = op[7:0]`. -/
def kkOf (op : Word) : Byte := op.extractLsb' 0 8

/-- `x = op[11:8]`. -/
def xOf (op : Word) : RegIdx := (op.extractLsb' 8 4).toFin

/-- `y = op[7:4]`. -/
def yOf (op : Word) : RegIdx := (op.extractLsb' 4 4).toFin

/-- `n = op[3:0]`. -/
def nOf (op : Word) : Fin 16 := (op.extractLsb' 0 4).toFin

/-- The source's general field extractor: mask, then shift right by the mask's trailing zero bits; any other mask
fails with InvalidMask (R82, R97, U11). The decoder's own fields are the fixed slices above. -/
def extractField (op mask : Word) : Except DecodeError Word :=
  if mask = 0xF000#16 then .ok ((op &&& mask) >>> 12)
  else if mask = 0x0FFF#16 then .ok (op &&& mask)
  else if mask = 0x00FF#16 then .ok (op &&& mask)
  else if mask = 0x0F00#16 then .ok ((op &&& mask) >>> 8)
  else if mask = 0x00F0#16 then .ok ((op &&& mask) >>> 4)
  else if mask = 0x000F#16 then .ok (op &&& mask)
  else .error (.invalidMask mask)

/-! ### Decoding (R84 to R89, R98) -/

/-- Family `0x0`: the comparison is on the whole word (R85). -/
def decodeFamily0 (op : Word) : Except DecodeError Instr :=
  if op = 0x00E0#16 then .ok .cls
  else if op = 0x00EE#16 then .ok .ret
  else .ok (.sys (nnnOf op))

/-- Family `0x8` sub-dispatches on the low nibble (R86). -/
def decodeFamily8 (op : Word) : Except DecodeError Instr :=
  match (nOf op).val with
  | 0x0 => .ok (.ldReg (xOf op) (yOf op))
  | 0x1 => .ok (.orReg (xOf op) (yOf op))
  | 0x2 => .ok (.andReg (xOf op) (yOf op))
  | 0x3 => .ok (.xorReg (xOf op) (yOf op))
  | 0x4 => .ok (.addReg (xOf op) (yOf op))
  | 0x5 => .ok (.sub (xOf op) (yOf op))
  | 0x6 => .ok (.shr (xOf op) (yOf op))
  | 0x7 => .ok (.subn (xOf op) (yOf op))
  | 0xE => .ok (.shl (xOf op) (yOf op))
  | _ => .error (.unknownOpcode op)

/-- Family `0xE` sub-dispatches on the low byte (R87). -/
def decodeFamilyE (op : Word) : Except DecodeError Instr :=
  match (kkOf op).toNat with
  | 0x9E => .ok (.skp (xOf op))
  | 0xA1 => .ok (.sknp (xOf op))
  | _ => .error (.unknownOpcode op)

/-- Family `0xF` sub-dispatches on the low byte (R88). -/
def decodeFamilyF (op : Word) : Except DecodeError Instr :=
  match (kkOf op).toNat with
  | 0x07 => .ok (.ldFromDt (xOf op))
  | 0x0A => .ok (.ldKey (xOf op))
  | 0x15 => .ok (.ldDt (xOf op))
  | 0x18 => .ok (.ldSt (xOf op))
  | 0x1E => .ok (.addI (xOf op))
  | 0x29 => .ok (.ldFont (xOf op))
  | 0x33 => .ok (.ldBcd (xOf op))
  | 0x55 => .ok (.stRegs (xOf op))
  | 0x65 => .ok (.ldRegs (xOf op))
  | _ => .error (.unknownOpcode op)

/-- Decode of one instruction word: total; a word of no row is rejected with the word itself (R84, R98). -/
def decode (op : Word) : Except DecodeError Instr :=
  match (topOf op).toNat with
  | 0x0 => decodeFamily0 op
  | 0x1 => .ok (.jp (nnnOf op))
  | 0x2 => .ok (.call (nnnOf op))
  | 0x3 => .ok (.seImm (xOf op) (kkOf op))
  | 0x4 => .ok (.sneImm (xOf op) (kkOf op))
  | 0x5 => if nOf op = 0 then .ok (.seReg (xOf op) (yOf op)) else .error (.unknownOpcode op)
  | 0x6 => .ok (.ldImm (xOf op) (kkOf op))
  | 0x7 => .ok (.addImm (xOf op) (kkOf op))
  | 0x8 => decodeFamily8 op
  | 0x9 => if nOf op = 0 then .ok (.sneReg (xOf op) (yOf op)) else .error (.unknownOpcode op)
  | 0xA => .ok (.ldI (nnnOf op))
  | 0xB => .ok (.jpOff (nnnOf op))
  | 0xC => .ok (.rnd (xOf op) (kkOf op))
  | 0xD => .ok (.drw (xOf op) (yOf op) (nOf op))
  | 0xE => decodeFamilyE op
  | _ => decodeFamilyF op

/-- The instruction word of two bytes, the byte at the lower address first (R12, R57). -/
def wordOfBytes (hi lo : Byte) : Word := hi ++ lo

/-- Decode of the first instruction of a byte stream, "raw big-endian 16-bit opcodes packed in a byte stream" (R57,
R80), with the bytes after it. -/
def decodeBytes : List Byte → Except DecodeError (Instr × List Byte)
  | hi :: lo :: rest =>
    match decode (wordOfBytes hi lo) with
    | .ok i => .ok (i, rest)
    | .error e => .error e
  | [_] => .error .truncated
  | [] => .error .truncated

/-! ### Encoding (R81, R90) -/

/-- A register number or a row count as the four bits of its field. -/
def nibble (x : Fin 16) : BitVec 4 := BitVec.ofFin x

/-- Format NNN. -/
def wordNNN (top : BitVec 4) (nnn : Addr12) : Word := top ++ nnn

/-- Formats XKK and, with a fixed low byte, X. -/
def wordXKK (top : BitVec 4) (x : RegIdx) (kk : Byte) : Word := top ++ nibble x ++ kk

/-- Formats XYN and, with a fixed low nibble, XY. -/
def wordXYN (top : BitVec 4) (x y : RegIdx) (n : Fin 16) : Word :=
  top ++ nibble x ++ nibble y ++ nibble n

/-- The word of an instruction, from the encoding column of the opcode map (R81, R90). -/
def encode : Instr → Word
  | .cls => 0x00E0#16
  | .ret => 0x00EE#16
  | .sys nnn => wordNNN 0x0#4 nnn
  | .jp nnn => wordNNN 0x1#4 nnn
  | .call nnn => wordNNN 0x2#4 nnn
  | .seImm x kk => wordXKK 0x3#4 x kk
  | .sneImm x kk => wordXKK 0x4#4 x kk
  | .seReg x y => wordXYN 0x5#4 x y 0x0
  | .sneReg x y => wordXYN 0x9#4 x y 0x0
  | .ldImm x kk => wordXKK 0x6#4 x kk
  | .addImm x kk => wordXKK 0x7#4 x kk
  | .ldReg x y => wordXYN 0x8#4 x y 0x0
  | .orReg x y => wordXYN 0x8#4 x y 0x1
  | .andReg x y => wordXYN 0x8#4 x y 0x2
  | .xorReg x y => wordXYN 0x8#4 x y 0x3
  | .addReg x y => wordXYN 0x8#4 x y 0x4
  | .sub x y => wordXYN 0x8#4 x y 0x5
  | .shr x y => wordXYN 0x8#4 x y 0x6
  | .subn x y => wordXYN 0x8#4 x y 0x7
  | .shl x y => wordXYN 0x8#4 x y 0xE
  | .ldI nnn => wordNNN 0xA#4 nnn
  | .jpOff nnn => wordNNN 0xB#4 nnn
  | .rnd x kk => wordXKK 0xC#4 x kk
  | .drw x y n => wordXYN 0xD#4 x y n
  | .skp x => wordXKK 0xE#4 x 0x9E#8
  | .sknp x => wordXKK 0xE#4 x 0xA1#8
  | .ldFromDt x => wordXKK 0xF#4 x 0x07#8
  | .ldDt x => wordXKK 0xF#4 x 0x15#8
  | .ldSt x => wordXKK 0xF#4 x 0x18#8
  | .ldKey x => wordXKK 0xF#4 x 0x0A#8
  | .addI x => wordXKK 0xF#4 x 0x1E#8
  | .ldFont x => wordXKK 0xF#4 x 0x29#8
  | .ldBcd x => wordXKK 0xF#4 x 0x33#8
  | .stRegs x => wordXKK 0xF#4 x 0x55#8
  | .ldRegs x => wordXKK 0xF#4 x 0x65#8

/-! ### The opcode map (R90) -/

/-- A row of the opcode map: a word is in it when the word masked equals the pattern. -/
structure OpcodeRow where
  mask : Word
  pattern : Word
deriving DecidableEq, Repr

/-- Whether a word is in a row (R90). -/
def OpcodeRow.holds (r : OpcodeRow) (op : Word) : Bool := op &&& r.mask == r.pattern

/-- The row of an instruction (R90; rows 1 to 35 of opcode_table.json). -/
def Instr.row : Instr → OpcodeRow
  | .cls => ⟨0xFFFF#16, 0x00E0#16⟩
  | .ret => ⟨0xFFFF#16, 0x00EE#16⟩
  | .sys _ => ⟨0xF000#16, 0x0000#16⟩
  | .jp _ => ⟨0xF000#16, 0x1000#16⟩
  | .call _ => ⟨0xF000#16, 0x2000#16⟩
  | .seImm _ _ => ⟨0xF000#16, 0x3000#16⟩
  | .sneImm _ _ => ⟨0xF000#16, 0x4000#16⟩
  | .seReg _ _ => ⟨0xF00F#16, 0x5000#16⟩
  | .sneReg _ _ => ⟨0xF00F#16, 0x9000#16⟩
  | .ldImm _ _ => ⟨0xF000#16, 0x6000#16⟩
  | .addImm _ _ => ⟨0xF000#16, 0x7000#16⟩
  | .ldReg _ _ => ⟨0xF00F#16, 0x8000#16⟩
  | .orReg _ _ => ⟨0xF00F#16, 0x8001#16⟩
  | .andReg _ _ => ⟨0xF00F#16, 0x8002#16⟩
  | .xorReg _ _ => ⟨0xF00F#16, 0x8003#16⟩
  | .addReg _ _ => ⟨0xF00F#16, 0x8004#16⟩
  | .sub _ _ => ⟨0xF00F#16, 0x8005#16⟩
  | .shr _ _ => ⟨0xF00F#16, 0x8006#16⟩
  | .subn _ _ => ⟨0xF00F#16, 0x8007#16⟩
  | .shl _ _ => ⟨0xF00F#16, 0x800E#16⟩
  | .ldI _ => ⟨0xF000#16, 0xA000#16⟩
  | .jpOff _ => ⟨0xF000#16, 0xB000#16⟩
  | .rnd _ _ => ⟨0xF000#16, 0xC000#16⟩
  | .drw _ _ _ => ⟨0xF000#16, 0xD000#16⟩
  | .skp _ => ⟨0xF0FF#16, 0xE09E#16⟩
  | .sknp _ => ⟨0xF0FF#16, 0xE0A1#16⟩
  | .ldFromDt _ => ⟨0xF0FF#16, 0xF007#16⟩
  | .ldDt _ => ⟨0xF0FF#16, 0xF015#16⟩
  | .ldSt _ => ⟨0xF0FF#16, 0xF018#16⟩
  | .ldKey _ => ⟨0xF0FF#16, 0xF00A#16⟩
  | .addI _ => ⟨0xF0FF#16, 0xF01E#16⟩
  | .ldFont _ => ⟨0xF0FF#16, 0xF029#16⟩
  | .ldBcd _ => ⟨0xF0FF#16, 0xF033#16⟩
  | .stRegs _ => ⟨0xF0FF#16, 0xF055#16⟩
  | .ldRegs _ => ⟨0xF0FF#16, 0xF065#16⟩

/-! ### The host's view -/

/-- The instruction the decoder reads from a word numbered as spec/opcode_table.json numbers it: the word's bytes, high
byte first, given to `decodeBytes`. Every instruction has 16 bits, so bits above `nbits` are 0. -/
def decodeTableWord (nbits w : Nat) : Option Instr :=
  let op : Word := BitVec.ofNat 16 (w % 2 ^ nbits)
  match decodeBytes [op.extractLsb' 8 8, op.extractLsb' 0 8] with
  | .ok (i, _) => some i
  | .error _ => none

end Sys2Proof
end

