-- ==== Sys2Proof/Machine/Ops.lean ====
section
/-! DEFINITION. The named operations on the state that every instruction and the step are written with: the pseudocode
primitives of 00_scope.md R14 and R15, taking a fault (60_exceptions.md R237), the timer tick, the key sample and the
fetch (40_cycle.md R112 to R115). -/

namespace Sys2Proof.Machine

/-! ### Registers (R14, R21) -/

/-- `V[x]`. -/
def State.getV (s : State) (x : RegIdx) : Byte := s.v.get x

/-- `V[x] <- b`. -/
def State.setV (s : State) (x : RegIdx) (b : Byte) : State := { s with v := s.v.set x.val b x.isLt }

/-- `I <- a`. -/
def State.setI (s : State) (a : Word) : State := { s with i := a }

/-- `PC <- a`, a control transfer. -/
def State.setPc (s : State) (a : Word) : State := { s with pc := a }

/-- `DT <- b`. -/
def State.setDt (s : State) (b : Byte) : State := { s with dt := b }

/-- `ST <- b`. -/
def State.setSt (s : State) (b : Byte) : State := { s with st := b }

/-- `PC <- PC + 2`: the increment of the fetch (R115) and a skip (R17). -/
def State.advancePc (s : State) : State := s.setPc (s.pc + 2)

/-- `if c then PC <- PC + 2`. -/
def State.skipIf (s : State) (c : Bool) : State := if c then s.advancePc else s

/-! ### Taking a fault (R237 to R239)

There is no return from a fault: `00EE` returns from a subroutine, and a halted machine takes no step (R239). -/

/-- `raise k`: `HALT <- faulted(k)` and nothing else; nothing is saved, and control goes nowhere (R237). -/
def State.raise (s : State) (k : FaultKind) : State := { s with halt := .faulted k }

/-- The numeric code of a kind of fault (R230, D17). -/
def FaultKind.code : FaultKind → Nat
  | .addressOutOfRange _ => 1
  | .valueOutOfRange _ => 2
  | .unknownOpcode _ => 3
  | .stackOverflow => 4
  | .invalidMask _ => 5
  | .stackUnderflow => 6

/-- The outcome of an instruction that a `raise` may have ended early: either way the cycle ends in a next state, with
what was done before the `raise` done (R238). -/
def settle (r : Except State State) : Result :=
  .next (match r with
    | .ok s => s
    | .error s => s)

/-! ### The call stack (R29, R30) -/

/-- `push(STACK, a); SP <- SP + 1`, or StackOverflow at capacity 16 (R30, R134; log 15). -/
def State.push (s : State) (a : Word) : Except State State :=
  if s.stack.length < 16 then .ok { s with stack := a :: s.stack, sp := s.sp + 1 }
  else .error (s.raise .stackOverflow)

/-- `PC <- pop(STACK); SP <- SP - 1`, or StackUnderflow on an empty stack (R30, R131). -/
def State.popPc (s : State) : Except State State :=
  match s.stack with
  | [] => .error (s.raise .stackUnderflow)
  | a :: rest => .ok { s with stack := rest, sp := s.sp - 1, pc := a }

/-! ### Memory (R55 to R57, R61) -/

/-- `MEM[a]`, with no range check. -/
def State.peek (s : State) (a : Nat) : Byte := s.mem.read s.cfg.font a

/-- `MEM[a] <- b`, with no range check. -/
def State.poke (s : State) (a : Nat) (b : Byte) : State := { s with mem := s.mem.write s.cfg.font a b }

/-- `MemRead(a, 1)`: the address is a natural number, never wrapped (R55). -/
def State.memRead (s : State) (a : Nat) : Except FaultKind Byte :=
  if a > 0xFFF then .error (.addressOutOfRange a) else .ok (s.peek a)

/-- `MemWrite(a, 1, b)` (R55). -/
def State.memWrite (s : State) (a : Nat) (b : Byte) : Except FaultKind State :=
  if a > 0xFFF then .error (.addressOutOfRange a) else .ok (s.poke a b)

/-- Store bytes from an address up, "one call per byte, each validated": the bytes before a failing one are stored
(R56, R61). -/
def State.storeBytes : List Byte → Nat → State → Except State State
  | [], _, s => .ok s
  | b :: bs, a, s =>
    match s.memWrite a b with
    | .error k => .error (s.raise k)
    | .ok t => State.storeBytes bs (a + 1) t

/-- Load registers from an address up; the registers before a failing access are loaded (R61, R185). -/
def State.loadRegs : List RegIdx → Nat → State → Except State State
  | [], _, s => .ok s
  | r :: rs, a, s =>
    match s.memRead a with
    | .error k => .error (s.raise k)
    | .ok b => State.loadRegs rs (a + 1) (s.setV r b)

/-! ### The display (R15, R247) -/

/-- A pixel of a display at wrapped coordinates, column mod 64 and row mod 32 (R203, D6). -/
def fbGet (fb : Display) (px py : Nat) : Bool := (Vector.get fb (Fin.ofNat 64 px)).get (Fin.ofNat 32 py)

/-- A display with one pixel changed. -/
def fbSet (fb : Display) (px py : Nat) (b : Bool) : Display :=
  Vector.set fb (Fin.ofNat 64 px).val ((Vector.get fb (Fin.ofNat 64 px)).set (Fin.ofNat 32 py).val b (Fin.ofNat 32 py).isLt)
    (Fin.ofNat 64 px).isLt

/-- The display with every pixel off. -/
def fbOff : Display := Vector.replicate 64 (Vector.replicate 32 false)

/-- `DispPixel(px, py)`. -/
def State.pixel (s : State) (px py : Nat) : Bool := fbGet s.fb px py

/-- `DispSet(px, py, b)`. -/
def State.setPixel (s : State) (px py : Nat) (b : Bool) : State := { s with fb := fbSet s.fb px py b }

/-- `DispClear()`. -/
def State.clearDisplay (s : State) : State := { s with fb := fbOff }

/-- `DispRender()`: an output event, which changes nothing the core can see (R247, D24). -/
def State.requestRender (s : State) : State := { s with renders := s.renders + 1 }

/-- XOR a lit sprite bit onto the pixel at (px, py), noting a pixel that goes from on to off (R201). -/
def State.flipPixel (s : State) (hit : Bool) (px py : Nat) : State × Bool :=
  let old := s.pixel px py
  (s.setPixel px py (!old), hit || old)

/-- The columns of one row of a sprite from column c on: bit 7 - c of the row's byte is column c (R201, R202). -/
def State.drawRow (x0 py : Nat) (b : Byte) : List Nat → State × Bool → State × Bool
  | [], acc => acc
  | c :: cs, acc =>
    State.drawRow x0 py b cs (if b.getLsbD (7 - c) then acc.1.flipPixel acc.2 (x0 + c) py else acc)

/-- The rows of a sprite, each read from memory just before it is drawn; the rows before a failing read are drawn
(R201, D7). -/
def State.drawRows (x0 y0 addr : Nat) : List Nat → State × Bool → Except State (State × Bool)
  | [], acc => .ok acc
  | r :: rs, acc =>
    match acc.1.memRead (addr + r) with
    | .error k => .error (acc.1.raise k)
    | .ok b => State.drawRows x0 y0 addr rs (State.drawRow x0 (y0 + r) b (List.range 8) acc)

/-! ### The keypad and the random source (R15, R248, R249) -/

/-- `KeyDown(k)`: no hex key is numbered above `0xF` (R210, R248, D8). -/
def State.keyDown (s : State) (k : Byte) : Bool := decide (k.toNat ≤ 0xF) && s.input.keys.getLsbD k.toNat

/-- `KeyAny()`: `none` exactly when no key is down, else one of the keys that are down: the cycle's choice if that key
is down, else the lowest-numbered one (R212, R248, D9; log 6). -/
def State.keyAny (s : State) : Option RegIdx :=
  if s.input.keys.getLsbD s.input.pick.val then some s.input.pick
  else (List.finRange 16).find? (fun k => s.input.keys.getLsbD k.val)

/-- `Rand8()`: the byte the random source delivers in this cycle (R163, R249). -/
def State.rand8 (s : State) : Byte := s.input.draw

/-! ### The start of a cycle (R111 to R113) -/

/-- `TIMER_DIV`, floor of F/60 (R10, D4). -/
def timerDiv (c : Config) : Nat := c.freq / 60

/-- A timer's decrement, "never below zero" (R112). -/
def countDown (b : Byte) : Byte := if b = 0 then 0 else b - 1

/-- `TimerTick()` (R112). -/
def State.timerTick (s : State) : State :=
  if s.tick + 1 ≥ timerDiv s.cfg then { s with tick := 0, dt := countDown s.dt, st := countDown s.st }
  else { s with tick := s.tick + 1 }

/-- The free inputs of a cycle for which the host has supplied none (log 5). -/
def freeInput (n : Nat) : CycleInput where
  keys := Config.keySample n
  draw := Config.randomByte n
  pick := (Config.keyChoice n).toFin

/-- The cycle's inputs: the next one the host has supplied, else free values (R113, R117; log 5). -/
def State.sampleInput (s : State) : State :=
  match s.inputs with
  | c :: rest => { s with input := c, inputs := rest, cycle := s.cycle + 1 }
  | [] => { s with input := freeInput s.cycle, cycle := s.cycle + 1 }

/-- Phases 1 and 2 of a cycle: the timer tick, then the key sample (R111). -/
def State.beginCycle (s : State) : State := s.timerTick.sampleInput

/-- `MemRead(PC, 2)`: the byte at PC is read and checked first and is the high byte (R57, R114). -/
def State.fetch (s : State) : Except FaultKind Word :=
  match s.memRead s.pc.toNat with
  | .error k => .error k
  | .ok hi =>
    match s.memRead (s.pc.toNat + 1) with
    | .error k => .error k
    | .ok lo => .ok (wordOfBytes hi lo)

end Sys2Proof.Machine
end

