-- ==== Sys2Proof/Machine/Flags.lean ====
section
/-! DEFINITION. What the instructions write into the flag register VF (10_state.md R23), and the two orders in which a
flag and a result are written (00_scope.md R16, 42_alu.md R165, D3; log 10). -/

namespace Sys2Proof.Machine

/-- The number of the flag register VF (R23). -/
abbrev vf : RegIdx := 15

/-- A flag as the byte 1 or 0. -/
def flagByte (c : Bool) : Byte := if c then 1 else 0

/-- The carry of `8xy4`: 1 when the sum passes 255 (R158). -/
def carryFlag (a b : Byte) : Byte := flagByte (decide (a.toNat + b.toNat > 255))

/-- The flag of `8xy5` and `8xy7`: 1 when the minuend is strictly greater than the subtrahend (R159, R160). -/
def greaterFlag (a b : Byte) : Byte := flagByte (decide (a.toNat > b.toNat))

/-- The bit `8xy6` shifts out (R161). -/
def shiftRightFlag (t : Byte) : Byte := flagByte (t.getLsbD 0)

/-- The bit `8xyE` shifts out (R162). -/
def shiftLeftFlag (t : Byte) : Byte := flagByte (t.getLsbD 7)

/-- The flag of `Fx1E`: 1 when the sum passes `0xFFF` (R181). -/
def indexFlag (i : Word) (a : Byte) : Byte := flagByte (decide (i.toNat + a.toNat > 0xFFF))

/-- `V[15] <- flag; V[x] <- result`: with x = 15 the result lands last and the flag is lost (R165). -/
def State.writeFlagThen (s : State) (x : RegIdx) (flag result : Byte) : State := (s.setV vf flag).setV x result

/-- `V[x] <- result; if Q_LOGIC then V[15] <- 0` (R155 to R157). -/
def State.writeLogic (s : State) (x : RegIdx) (result : Byte) : State :=
  if s.cfg.qLogic then (s.setV x result).setV vf 0 else s.setV x result

end Sys2Proof.Machine
end

