-- ==== Sys2Proof/Machine/Operands.lean ====
section
/-! DEFINITION. The operand forms of the instructions: what each one reads, from the state before the instruction
(00_scope.md R14, R16; 30_encoding.md R82, R83, R94; 43_index_memory.md R186). -/

namespace Sys2Proof.Machine

/-- `zext_16` of a byte (R14). -/
def zext16 (b : Byte) : Word := b.setWidth 16

/-- `zext_16` of an address literal: it is not scaled and not relative to PC (R83). -/
def zextAddr (a : Addr12) : Word := a.setWidth 16

/-- `x` of a family-B word read as `Bxnn`: the high nibble of its low 12 bits (R94, R139). -/
def offsetReg (nnn : Addr12) : RegIdx := (nnn.extractLsb' 8 4).toFin

/-- `kk` of a family-B word read as `Bxnn` (R94, R139). -/
def offsetByte (nnn : Addr12) : Byte := nnn.extractLsb' 0 8

/-- The target of `Bnnn`: `nnn + V[0]`, or `kk + V[x]` when `Q_JUMP` (R139, D10; log 12). -/
def State.jumpTarget (s : State) (nnn : Addr12) : Word :=
  if s.cfg.qJump then zext16 (offsetByte nnn) + zext16 (s.getV (offsetReg nnn))
  else zextAddr nnn + zext16 (s.getV 0)

/-- The operand of a shift: `V[y]` when `Q_SHIFT`, else `V[x]` (R161, R162). -/
def State.shiftOperand (s : State) (x y : RegIdx) : Byte := if s.cfg.qShift then s.getV y else s.getV x

/-- The effective address `I + j`, over the naturals (R186). -/
def State.effAddr (s : State) (j : Nat) : Nat := s.i.toNat + j

/-- The registers `V[0]` to `V[x]`, in the order they are transferred (R184, R185). -/
def regsUpTo (x : RegIdx) : List RegIdx := (List.finRange 16).take (x.val + 1)

/-- The three decimal digits of a byte: hundreds, tens, ones (R183). -/
def bcdDigits (a : Byte) : List Byte :=
  [BitVec.ofNat 8 (a.toNat / 100), BitVec.ofNat 8 (a.toNat / 10 % 10), BitVec.ofNat 8 (a.toNat % 10)]

/-- The address of the glyph of a byte's low nibble (R182). -/
def glyphAddr (a : Byte) : Word := zext16 (a &&& 0x0F) * 5

/-- `(I + a) mod 4096` (R181, D12). -/
def State.indexSum (s : State) (a : Byte) : Word := BitVec.ofNat 16 ((s.i.toNat + a.toNat) % 4096)

/-- `I + x + 1`, the index after a transfer of `V[0]` to `V[x]` under `Q_LOADSTORE` (R184, R185). -/
def State.indexAfter (s : State) (x : RegIdx) : Word := BitVec.ofNat 16 (s.i.toNat + x.val + 1)

/-- The column a sprite starts at (R201). -/
def State.spriteX (s : State) (x : RegIdx) : Nat := (s.getV x).toNat % 64

/-- The row a sprite starts at (R201). -/
def State.spriteY (s : State) (y : RegIdx) : Nat := (s.getV y).toNat % 32

end Sys2Proof.Machine
end

