-- ==== Sys2Proof/Machine/Alu.lean ====
section
/-! DEFINITION. Register loads, arithmetic, logic, shifts, random (42_alu.md). All arithmetic is modulo 256 (R150);
operands are read before anything is written (R164); none of these can fault (R151). -/

namespace Sys2Proof.Machine

/-- `6xkk` LD Vx, kk (R152). -/
def execLdImm (x : RegIdx) (kk : Byte) (s : State) : Result := .next (s.setV x kk)

/-- `7xkk` ADD Vx, kk: no flag (R153). -/
def execAddImm (x : RegIdx) (kk : Byte) (s : State) : Result := .next (s.setV x (s.getV x + kk))

/-- `8xy0` LD Vx, Vy (R154). -/
def execLdReg (x y : RegIdx) (s : State) : Result := .next (s.setV x (s.getV y))

/-- `8xy1` OR Vx, Vy (R155). -/
def execOrReg (x y : RegIdx) (s : State) : Result := .next (s.writeLogic x (s.getV x ||| s.getV y))

/-- `8xy2` AND Vx, Vy (R156). -/
def execAndReg (x y : RegIdx) (s : State) : Result := .next (s.writeLogic x (s.getV x &&& s.getV y))

/-- `8xy3` XOR Vx, Vy (R157). -/
def execXorReg (x y : RegIdx) (s : State) : Result := .next (s.writeLogic x (s.getV x ^^^ s.getV y))

/-- `8xy4` ADD Vx, Vy (R158). -/
def execAddReg (x y : RegIdx) (s : State) : Result :=
  .next (s.writeFlagThen x (carryFlag (s.getV x) (s.getV y)) (s.getV x + s.getV y))

/-- `8xy5` SUB Vx, Vy (R159). -/
def execSub (x y : RegIdx) (s : State) : Result :=
  .next (s.writeFlagThen x (greaterFlag (s.getV x) (s.getV y)) (s.getV x - s.getV y))

/-- `8xy7` SUBN Vx, Vy (R160). -/
def execSubn (x y : RegIdx) (s : State) : Result :=
  .next (s.writeFlagThen x (greaterFlag (s.getV y) (s.getV x)) (s.getV y - s.getV x))

/-- `8xy6` SHR Vx, Vy (R161). -/
def execShr (x y : RegIdx) (s : State) : Result :=
  .next (s.writeFlagThen x (shiftRightFlag (s.shiftOperand x y)) (s.shiftOperand x y >>> 1))

/-- `8xyE` SHL Vx, Vy (R162). -/
def execShl (x y : RegIdx) (s : State) : Result :=
  .next (s.writeFlagThen x (shiftLeftFlag (s.shiftOperand x y)) (s.shiftOperand x y <<< 1))

/-- `Cxkk` RND Vx, kk (R163). -/
def execRnd (x : RegIdx) (kk : Byte) (s : State) : Result := .next (s.setV x (s.rand8 &&& kk))

end Sys2Proof.Machine
end

