-- ==== Sys2Proof/Machine/Flow.lean ====
section
/-! DEFINITION. Control transfer (41_flow.md). On entry `PC` holds the instruction's own address plus 2 (R130). -/

namespace Sys2Proof.Machine

/-- `00EE` RET (R131). -/
def execRet (s : State) : Result := settle s.popPc

/-- `0nnn` SYS nnn: a no-op (R132). -/
def execSys (_nnn : Addr12) (s : State) : Result := .next s

/-- `1nnn` JP nnn (R133). -/
def execJp (nnn : Addr12) (s : State) : Result := .next (s.setPc (zextAddr nnn))

/-- `2nnn` CALL nnn: the pushed address is PC, the instruction's own address plus 2 (R134). -/
def execCall (nnn : Addr12) (s : State) : Result :=
  settle ((s.push s.pc).map (fun t => t.setPc (zextAddr nnn)))

/-- `3xkk` SE Vx, kk (R135). -/
def execSeImm (x : RegIdx) (kk : Byte) (s : State) : Result := .next (s.skipIf (s.getV x == kk))

/-- `4xkk` SNE Vx, kk (R136). -/
def execSneImm (x : RegIdx) (kk : Byte) (s : State) : Result := .next (s.skipIf (s.getV x != kk))

/-- `5xy0` SE Vx, Vy (R137). -/
def execSeReg (x y : RegIdx) (s : State) : Result := .next (s.skipIf (s.getV x == s.getV y))

/-- `9xy0` SNE Vx, Vy (R138). -/
def execSneReg (x y : RegIdx) (s : State) : Result := .next (s.skipIf (s.getV x != s.getV y))

/-- `Bnnn` JP V0, nnn: the sum is not reduced (R139). -/
def execJpOff (nnn : Addr12) (s : State) : Result := .next (s.setPc (s.jumpTarget nnn))

end Sys2Proof.Machine
end

