-- ==== Sys2Proof/Machine/Index.lean ====
section
/-! DEFINITION. The index register and memory transfers (43_index_memory.md). -/

namespace Sys2Proof.Machine

/-- `Annn` LD I, nnn (R180). -/
def execLdI (nnn : Addr12) (s : State) : Result := .next (s.setI (zextAddr nnn))

/-- `Fx1E` ADD I, Vx: VF is always written (R181). -/
def execAddI (x : RegIdx) (s : State) : Result :=
  .next ((s.setV vf (indexFlag s.i (s.getV x))).setI (s.indexSum (s.getV x)))

/-- `Fx29` LD F, Vx (R182). -/
def execLdFont (x : RegIdx) (s : State) : Result := .next (s.setI (glyphAddr (s.getV x)))

/-- `Fx33` LD B, Vx (R183). -/
def execLdBcd (x : RegIdx) (s : State) : Result :=
  settle (s.storeBytes (bcdDigits (s.getV x)) (s.effAddr 0))

/-- `if Q_LOADSTORE then I <- I + x + 1`, after a transfer that has not faulted (R184, R185). -/
def State.bumpIndex (s : State) (x : RegIdx) : State :=
  if s.cfg.qLoadStore then s.setI (s.indexAfter x) else s

/-- `Fx55` LD [I], Vx (R184). -/
def execStRegs (x : RegIdx) (s : State) : Result :=
  settle ((s.storeBytes ((regsUpTo x).map s.getV) (s.effAddr 0)).map (fun t => t.bumpIndex x))

/-- `Fx65` LD Vx, [I] (R185). -/
def execLdRegs (x : RegIdx) (s : State) : Result :=
  settle ((s.loadRegs (regsUpTo x) (s.effAddr 0)).map (fun t => t.bumpIndex x))

end Sys2Proof.Machine
end

