-- ==== Sys2Proof/Machine/Keypad.lean ====
section
/-! DEFINITION. The keypad and timer instructions (45_keypad_timers.md). -/

namespace Sys2Proof.Machine

/-- `Ex9E` SKP Vx (R210). -/
def execSkp (x : RegIdx) (s : State) : Result := .next (s.skipIf (s.keyDown (s.getV x)))

/-- `ExA1` SKNP Vx (R211). -/
def execSknp (x : RegIdx) (s : State) : Result := .next (s.skipIf (!s.keyDown (s.getV x)))

/-- `Fx0A` LD Vx, K: with no key down PC goes back to this instruction's own address (R212). -/
def execLdKey (x : RegIdx) (s : State) : Result :=
  .next (match s.keyAny with
    | none => s.setPc (s.pc - 2)
    | some k => s.setV x (BitVec.ofNat 8 k.val))

/-- `Fx07` LD Vx, DT (R213). -/
def execLdFromDt (x : RegIdx) (s : State) : Result := .next (s.setV x s.dt)

/-- `Fx15` LD DT, Vx: TICK is not reset (R214). -/
def execLdDt (x : RegIdx) (s : State) : Result := .next (s.setDt (s.getV x))

/-- `Fx18` LD ST, Vx (R215). -/
def execLdSt (x : RegIdx) (s : State) : Result := .next (s.setSt (s.getV x))

end Sys2Proof.Machine
end

