-- ==== Sys2Proof/Machine/Screen.lean ====
section
/-! DEFINITION. The display instructions (44_display.md). -/

namespace Sys2Proof.Machine

/-- `00E0` CLS: no render is requested (R200, D28). -/
def execCls (s : State) : Result := .next s.clearDisplay

/-- `Dxyn` DRW Vx, Vy, n: VF and the render request come after all rows (R201, R203). -/
def execDrw (x y : RegIdx) (n : Fin 16) (s : State) : Result :=
  settle ((State.drawRows (s.spriteX x) (s.spriteY y) (s.effAddr 0) (List.range n.val) (s, false)).map
    (fun acc => (acc.1.setV vf (flagByte acc.2)).requestRender))

end Sys2Proof.Machine
end

