-- ==== Sys2Proof/Machine/Launch.lean ====
section
/-! DEFINITION. What the host does before the first cycle (70_reset_and_hazards.md R262): configure the core (R246) and
load a program (R70, R250); and the inputs it supplies for the cycles of the run (R113, R117). A run is
`(State.launch cfg fb image).supply inputs` and then steps; the host's stop is the environment ceasing to step (R120). -/

namespace Sys2Proof.Machine

/-- Reset under the host's configuration, with the display holding what it holds at launch (R42, R246, R260). -/
def State.construct (cfg : Config) (fb : Display) : State := { State.reset with cfg := cfg, fb := fb }

/-- Write a program image from `0x200` up, before the first cycle. An image that runs past `0xFFF` leaves the machine
halted with AddressOutOfRange(0x1000) and the bytes up to `0xFFF` written (R70, R263, D26). -/
def State.loadProgram (s : State) (image : List Byte) : State :=
  match s.storeBytes image 0x200 with
  | .ok t => t
  | .error t => t

/-- Configuration and program load together (R262). -/
def State.launch (cfg : Config) (fb : Display) (image : List Byte) : State :=
  (State.construct cfg fb).loadProgram image

/-- The inputs the host supplies for the coming cycles; after them each cycle reads free values (log 5). -/
def State.supply (s : State) (inputs : List CycleInput) : State := { s with inputs := inputs }

end Sys2Proof.Machine
end

