-- ==== Sys2Proof/Machine/Step.lean ====
section
/-! DEFINITION. The step: one whole cycle (40_cycle.md R117, R118). -/

namespace Sys2Proof.Machine

/-- Phases 3 to 5 of a cycle: fetch, `PC <- PC + 2`, decode and execute. A fault of the fetch leaves `PC`; an illegal
word raises UnknownOpcode with `PC` already past it (R114 to R117, R233, R238). -/
def State.runCycle (s : State) : Host.Outcome State Fault Refusal :=
  match s.fetch with
  | .error k => .next (s.raise k)
  | .ok op =>
    match decode op with
    | .error _ => .next (s.advancePc.raise (.unknownOpcode op))
    | .ok i => exec i s.advancePc

/-- One cycle. A halted machine takes none (R119), and a configuration with `F` below 60 is refused (R10, D4). -/
def step (s : State) : Host.Outcome State Fault Refusal :=
  match s.halt with
  | .faulted k => .fault (.halted k)
  | .running =>
    if s.cfg.freq < 60 then .refused (.frequencyBelowSixty s.cfg.freq)
    else s.beginCycle.runCycle

/-- The state with one instruction word stored where the next step fetches, high byte at `PC` (R57). It stands for the
program load (log 18). Where `PC` names no two bytes of memory there is nowhere to store it, and nothing changes. -/
def State.withFetchWord (s : State) (nbits w : Nat) : State :=
  let op : Word := BitVec.ofNat 16 (w % 2 ^ nbits)
  if s.pc.toNat ≤ 0xFFE then
    (s.poke s.pc.toNat (op.extractLsb' 8 8)).poke (s.pc.toNat + 1) (op.extractLsb' 0 8)
  else s

end Sys2Proof.Machine
end

