-- ==== Sys2Proof/Safety.lean ====
section
/-! DEFINITION. The terms claims are made in: when a cycle can run, the invariant of the machine, the end of a program,
what a sprite lights, and which registers an instruction may write. -/

namespace Sys2Proof.Machine

/-- The machine is running under a configuration the spec specifies: the step executes a cycle (R10, R117). -/
def State.canCycle (s : State) : Prop := s.halt = .running ∧ 60 ≤ s.cfg.freq

/-- The two bytes at `PC`, the high byte first (R57). -/
def State.wordAtPc (s : State) : Word := wordOfBytes (s.peek s.pc.toNat) (s.peek (s.pc.toNat + 1))

/-- The instruction at `PC` lies in memory and is `i` (R114, R116). -/
def State.about (s : State) (i : Instr) : Prop := s.pc.toNat ≤ 0xFFE ∧ decode s.wordAtPc = .ok i

/-- The invariant of every run: what the spec derives about reachable states. -/
structure State.Inv (s : State) : Prop where
  /-- Memory is in its canonical form (log 19), and no cell exists above `0xFFF` (R50). -/
  memory : Memory.wf s.cfg.font s.mem
  /-- `SP` is the size of the stack (R31). -/
  spIsSize : s.sp.toNat = s.stack.length
  /-- The stack holds at most 16 entries (R30). -/
  depth : s.stack.length ≤ 16
  /-- A stack entry is a call's address plus 2 (R131, R134). -/
  returns : ∀ a ∈ s.stack, 2 ≤ a.toNat ∧ a.toNat ≤ 0x1000
  /-- `PC` never exceeds `0x10FE` (R28). -/
  pcBound : s.pc.toNat ≤ 0x10FE
  /-- `I` never exceeds `0x1000` (R25). -/
  indexBound : s.i.toNat ≤ 0x1000
  /-- `TICK` is in 0 to `TIMER_DIV - 1` at every cycle boundary (R34). -/
  tickBound : s.tick < timerDiv s.cfg

/-- "The program has reached its end": `PC` is the address of a `1nnn` that jumps to itself (R121, D19). DESIGN CHOICE
(log 23): nothing is said of `HALT`, so a halted machine whose `PC` stands there meets it too; a claim of a successful
end adds `s.halt = .running` (R119). -/
def State.atEnd (s : State) : Prop := ∃ nnn : Addr12, s.about (.jp nnn) ∧ s.pc = zextAddr nnn

/-- The pixel (px, py) is lit by one of the first `rows` rows of the sprite at `I` drawn from column x0 and row y0:
bit 7 is the leftmost column, and every pixel's coordinate wraps (R201 to R203). -/
def State.spriteLit (s : State) (x0 y0 rows px py : Nat) : Prop :=
  ∃ r c, r < rows ∧ c < 8 ∧ (s.peek (s.i.toNat + r)).getLsbD (7 - c) = true ∧
    px = (x0 + c) % 64 ∧ py = (y0 + r) % 32

/-- `t` shows at (px, py) what `s` shows there, flipped when `lit` holds: the XOR of a sprite bit onto a pixel. -/
abbrev State.flipsWhen (s t : State) (px py : Nat) (lit : Prop) : Prop :=
  (lit → t.pixel px py = !s.pixel px py) ∧ (¬ lit → t.pixel px py = s.pixel px py)

/-- The V registers an instruction may write (R22, R23). -/
def mayWriteV (cfg : Config) (r : RegIdx) : Instr → Prop
  | .ldImm x _ | .addImm x _ | .ldReg x _ | .rnd x _ | .ldFromDt x | .ldKey x => r = x
  | .addReg x _ | .sub x _ | .shr x _ | .subn x _ | .shl x _ => r = x ∨ r = vf
  | .orReg x _ | .andReg x _ | .xorReg x _ => r = x ∨ (cfg.qLogic = true ∧ r = vf)
  | .drw _ _ _ | .addI _ => r = vf
  | .ldRegs x => r ≤ x
  | .cls | .ret | .sys _ | .jp _ | .call _ | .seImm _ _ | .sneImm _ _ | .seReg _ _ | .sneReg _ _ => False
  | .ldI _ | .jpOff _ | .skp _ | .sknp _ | .ldDt _ | .ldSt _ | .ldFont _ | .ldBcd _ | .stRegs _ => False

end Sys2Proof.Machine
end

