-- ==== Sys2Proof/Certificates/Slice0/Obligations.lean ====
section
/-! DEFINITION. The statements about the machine. `exec i s` runs on the state in which the fetch has already added 2 to
`PC` (R115, R130), so "PC is unchanged" below says that it ends at the instruction's own address plus 2. A frame is
written `t = { s with … }`: every field that is not named is as before; the free inputs of a cycle (`s.input`) are
quantified over with the state. No statement rests on the values log 1 and log 3 to log 5 name for the quirk flags,
the font, the display and the inputs at reset; the clause of `LaunchSatisfiesTheInvariant` about `State.reset` rests on
the F of log 2. -/

open Sys2Proof Sys2Proof.Machine

/-! ### Encoding -/

/-- Words written out from the encodings of R90 decode to the instructions they stand for, and illegal words are
rejected with themselves (vectors T-ENC-1 to T-ENC-12). -/
def Obligations.SpecWordsDecode : Prop :=
  decode 0x6789#16 = .ok (.ldImm 7 0x89#8) ∧ decode 0x00E0#16 = .ok .cls ∧ decode 0x00EE#16 = .ok .ret ∧
  decode 0x01E0#16 = .ok (.sys 0x1E0#12) ∧ decode 0x5120#16 = .ok (.seReg 1 2) ∧
  decode 0xDAB0#16 = .ok (.drw 10 11 0) ∧ decode 0xB210#16 = .ok (.jpOff 0x210#12) ∧
  decode 0x812E#16 = .ok (.shl 1 2) ∧ decode 0xF30A#16 = .ok (.ldKey 3) ∧ decode 0xFF55#16 = .ok (.stRegs 15) ∧
  decode 0x5121#16 = .error (.unknownOpcode 0x5121#16) ∧ decode 0x8128#16 = .error (.unknownOpcode 0x8128#16) ∧
  decode 0xE19F#16 = .error (.unknownOpcode 0xE19F#16) ∧ decode 0xF090#16 = .error (.unknownOpcode 0xF090#16)

/-- Decoding the word of a well-formed instruction gives it back, with every operand at every value (R90, R98). -/
def Obligations.DecodeInvertsEncode : Prop :=
  ∀ i : Instr, i.wf = true → decode (encode i) = .ok i

/-- A word that decodes is the word of a well-formed instruction: no two words mean the same (R90, R98). -/
def Obligations.EncodeInvertsDecode : Prop :=
  ∀ (op : Word) (i : Instr), decode op = .ok i → encode i = op ∧ i.wf = true

/-- The words that match no row are those of the five illegal families and no others, and each is rejected with itself
(R86 to R91; the granularity is the spec's decision D11, log 11). -/
def Obligations.IllegalWordsAreTheListedOnes : Prop :=
  ∀ op : Word, decode op = .error (.unknownOpcode op) ↔
    ((op.toNat / 0x1000 = 0x5 ∨ op.toNat / 0x1000 = 0x9) ∧ op.toNat % 0x10 ≠ 0) ∨
    (op.toNat / 0x1000 = 0x8 ∧ 7 < op.toNat % 0x10 ∧ op.toNat % 0x10 ≠ 0xE) ∨
    (op.toNat / 0x1000 = 0xE ∧ op.toNat % 0x100 ≠ 0x9E ∧ op.toNat % 0x100 ≠ 0xA1) ∨
    (op.toNat / 0x1000 = 0xF ∧ op.toNat % 0x100 ∉ [0x07, 0x0A, 0x15, 0x18, 0x1E, 0x29, 0x33, 0x55, 0x65])

/-- The general extractor takes each field by its mask and shift, and fails with InvalidMask on every other mask (R82,
R97, U11). -/
def Obligations.FieldsAreMaskedAndShifted : Prop :=
  (∀ op : Word,
    extractField op 0xF000#16 = .ok (BitVec.ofNat 16 (topOf op).toNat) ∧
    extractField op 0x0FFF#16 = .ok (BitVec.ofNat 16 (nnnOf op).toNat) ∧
    extractField op 0x00FF#16 = .ok (BitVec.ofNat 16 (kkOf op).toNat) ∧
    extractField op 0x0F00#16 = .ok (BitVec.ofNat 16 (xOf op).val) ∧
    extractField op 0x00F0#16 = .ok (BitVec.ofNat 16 (yOf op).val) ∧
    extractField op 0x000F#16 = .ok (BitVec.ofNat 16 (nOf op).val)) ∧
  ∀ op mask : Word, mask ∉ [0xF000#16, 0x0FFF#16, 0x00FF#16, 0x0F00#16, 0x00F0#16, 0x000F#16] →
    extractField op mask = .error (.invalidMask mask)

/-! ### The cycle -/

/-- The fetch: two bytes, high byte first, the byte at PC checked first (R57, R114; the order of the reads is
the spec's decision D13, log 9). -/
def Obligations.FetchIsBigEndianOrFaults : Prop :=
  ∀ s : State,
    (s.pc.toNat ≤ 0xFFE → ∃ op, s.fetch = .ok op ∧
      op.toNat = (s.peek s.pc.toNat).toNat * 256 + (s.peek (s.pc.toNat + 1)).toNat) ∧
    (s.pc.toNat = 0xFFF → s.fetch = .error (.addressOutOfRange 0x1000)) ∧
    (0x1000 ≤ s.pc.toNat → s.fetch = .error (.addressOutOfRange s.pc.toNat))

/-- When the bytes at PC decode to an instruction, the step is its meaning, run after the timer tick, the input sample
and the increment of PC, which change what is said here and nothing else (R111, R115, R116, R117). -/
def Obligations.StepRunsTheDecodedInstruction : Prop :=
  (∀ (s : State) (i : Instr), s.canCycle → s.about i → step s = exec i s.beginCycle.advancePc) ∧
  ∀ s : State, s.beginCycle.advancePc =
    { s with
      tick := s.timerTick.tick, dt := s.timerTick.dt, st := s.timerTick.st,
      input := s.sampleInput.input, inputs := s.sampleInput.inputs, cycle := s.cycle + 1,
      pc := s.pc + 2 }

/-- A fetch that faults ends the cycle with PC unchanged, after the timer tick and the input sample (R114, R115, R238;
the state after a fault is the spec's decision D13, log 7). -/
def Obligations.FetchFaultHaltsWithPcUnchanged : Prop :=
  ∀ s : State, s.canCycle →
    (s.pc.toNat = 0xFFF → step s = .next { s.beginCycle with halt := .faulted (.addressOutOfRange 0x1000) }) ∧
    (0x1000 ≤ s.pc.toNat → step s = .next { s.beginCycle with halt := .faulted (.addressOutOfRange s.pc.toNat) })

/-- An illegal word raises UnknownOpcode with the word, PC already past it (R233; the state after a fault is the
spec's decision D13, log 7). -/
def Obligations.IllegalWordHaltsPastIt : Prop :=
  ∀ s : State, s.canCycle → s.pc.toNat ≤ 0xFFE → (∀ i, decode s.wordAtPc ≠ .ok i) →
    step s = .next { s.beginCycle with pc := s.pc + 2, halt := .faulted (.unknownOpcode s.wordAtPc) }

/-- A halted machine takes no further step, however long it is run (R119); that the outcome is a fault carrying the
kind is the model's form of it (log 7). -/
def Obligations.HaltedMachineTakesNoStep : Prop :=
  ∀ (s : State) (k : FaultKind) (n : Nat), s.halt = .faulted k →
    core.run (n + 1) s = .fault (Fault.halted k)

/-- A running machine under an `F` below 60 is refused, and under no other `F`: the spec's decision D4 and the model's
log 8, no rule of the source (R10). -/
def Obligations.OnlyLowFrequencyIsRefused : Prop :=
  ∀ (s : State) (r : Refusal), step s = .refused r ↔
    (s.halt = .running ∧ s.cfg.freq < 60 ∧ r = .frequencyBelowSixty s.cfg.freq)

/-- A running machine of at least 60 Hz always completes its cycle: the step answers a next state (R116, R118). -/
def Obligations.EveryCycleEndsInANextState : Prop :=
  ∀ s : State, s.canCycle → ∃ t, step s = .next t

/-- The timer tick: TICK counts to `TIMER_DIV`, then restarts and both timers drop by one, never below zero (R112;
`>=` and floor(F/60) are the spec's decision D4, log 14). -/
def Obligations.TimerTickCountsAndDecrements : Prop :=
  ∀ s : State,
    (s.tick + 1 < s.cfg.freq / 60 → s.timerTick = { s with tick := s.tick + 1 }) ∧
    (s.cfg.freq / 60 ≤ s.tick + 1 → ∃ t, s.timerTick = t ∧ t = { s with tick := 0, dt := t.dt, st := t.st } ∧
      t.dt.toNat = s.dt.toNat - 1 ∧ t.st.toNat = s.st.toNat - 1)

/-- Between two decrements lie exactly `TIMER_DIV` ticks: after k ticks the timers have dropped once for every time the
counter came round, and stop at zero (R112, R244, R271; decision D4, log 14). -/
def Obligations.TimerCadence : Prop :=
  ∀ (s : State) (k : Nat), s.tick < timerDiv s.cfg →
    (State.timerTick^[k] s).tick = (s.tick + k) % timerDiv s.cfg ∧
    (State.timerTick^[k] s).dt.toNat = s.dt.toNat - (s.tick + k) / timerDiv s.cfg ∧
    (State.timerTick^[k] s).st.toNat = s.st.toNat - (s.tick + k) / timerDiv s.cfg

/-- Each cycle takes its inputs afresh: the next ones the host has supplied, else the free values of that cycle. How
inputs are held is the model's choice (log 5); that there is one sample a cycle, before the fetch, is R113. -/
def Obligations.CycleTakesFreshInputs : Prop :=
  ∀ s : State,
    (∀ c rest, s.inputs = c :: rest → s.beginCycle.input = c ∧ s.beginCycle.inputs = rest) ∧
    (s.inputs = [] → s.beginCycle.input =
        { keys := Config.keySample s.cycle, draw := Config.randomByte s.cycle, pick := (Config.keyChoice s.cycle).toFin } ∧
      s.beginCycle.inputs = []) ∧
    s.beginCycle.cycle = s.cycle + 1

/-- A program at its end stays there: a self-jump changes nothing but TICK, DT and ST and the model's record of inputs
(R121; what the end of a program is is the spec's decision D19, log 23). -/
def Obligations.SelfJumpIsTheEnd : Prop :=
  ∀ s : State, s.canCycle → s.atEnd → ∃ t, step s = .next t ∧ t.atEnd ∧
    t = { s with tick := t.tick, dt := t.dt, st := t.st, input := t.input, inputs := t.inputs, cycle := t.cycle }

/-! ### Reset, launch and memory -/

/-- After reset, under any configuration and with any display (R41, R69, R260; TICK and HALT by the spec's decisions
D5 and D13, logs 14 and 7). -/
def Obligations.ResetState : Prop :=
  (∀ (cfg : Config) (fb : Display), ∃ s, State.construct cfg fb = s ∧
    (∀ r, s.getV r = 0) ∧ s.i = 0 ∧ s.pc = 0x200 ∧ s.sp = 0 ∧ s.stack = [] ∧ s.dt = 0 ∧ s.st = 0 ∧ s.tick = 0 ∧
    s.halt = .running ∧ s.cfg = cfg ∧ s.fb = fb ∧
    (∀ (d : Fin 16) (r : Fin 5), s.peek (d.val * 5 + r.val) = (cfg.font.get d).get r) ∧
    (∀ a, 0x050 ≤ a → s.peek a = 0)) ∧
  State.reset = State.construct State.reset.cfg State.reset.fb

/-- The program load: byte j of the image goes to `0x200 + j`, and an image that runs past `0xFFF` leaves the machine
halted with the bytes up to `0xFFF` written (R70, R263; decision D26, log 28; the state after a fault is decision D13, log
7). -/
def Obligations.ProgramLoadsAt0x200 : Prop :=
  ∀ (s : State) (image : List Byte),
    (image.length ≤ 3584 → ∃ t, s.loadProgram image = t ∧ t = { s with mem := t.mem } ∧
      ∀ a, t.peek a = if 0x200 ≤ a ∧ a < 0x200 + image.length then image.getD (a - 0x200) 0 else s.peek a) ∧
    (3584 < image.length → ∃ t, s.loadProgram image = t ∧
      t = { s with mem := t.mem, halt := .faulted (.addressOutOfRange 0x1000) } ∧
      ∀ a, t.peek a = if 0x200 ≤ a ∧ a ≤ 0xFFF then image.getD (a - 0x200) 0 else s.peek a)

/-- One byte access: an address above `0xFFF` faults with itself; below, a read returns the cell, and a write changes
that cell and nothing else, the font's cells like any other (R54, R55; that the font is writable is the spec's
resolution C1 and decision D22, log 25). -/
def Obligations.ByteAccessIsRangeChecked : Prop :=
  ∀ (s : State) (a : Nat) (b : Byte),
    (a ≤ 0xFFF → s.memRead a = .ok (s.peek a) ∧
      ∃ t, s.memWrite a b = .ok t ∧ t = { s with mem := t.mem } ∧ t.peek a = b ∧ ∀ c, c ≠ a → t.peek c = s.peek c) ∧
    (0xFFF < a → s.memRead a = .error (.addressOutOfRange a) ∧ s.memWrite a b = .error (.addressOutOfRange a))

/-- Two canonical memories that read alike at every address are the same data (the model's form of memory, log 19). -/
def Obligations.MemoriesThatReadAlikeAreEqual : Prop :=
  ∀ (font : Font) (m m' : Memory), Memory.wf font m → Memory.wf font m' →
    (∀ a, Memory.read font m a = Memory.read font m' a) → m = m'

/-- A store is seen by the next fetch: bytes `Fx55` stores where PC points are the word fetched next (R67). -/
def Obligations.StoreIsSeenByTheNextFetch : Prop :=
  ∀ (s t : State) (x r : RegIdx) (h : r.val + 1 < 16), s.effAddr x.val ≤ 0xFFF → r < x →
    s.pc.toNat = s.effAddr r.val → exec (.stRegs x) s = .next t →
    t.fetch = .ok (wordOfBytes (s.getV r) (s.getV ⟨r.val + 1, h⟩))

/-! ### Control transfer -/

/-- `00EE` (R131): the popped address, or StackUnderflow with nothing else changed; the state after a fault is the spec's
decision D13, log 7. -/
def Obligations.ReturnPopsOrUnderflows : Prop :=
  decode 0x00EE#16 = .ok .ret ∧
  ∀ s : State,
    (∀ a rest, s.stack = a :: rest → exec .ret s = .next { s with pc := a, stack := rest, sp := s.sp - 1 }) ∧
    (s.stack = [] → exec .ret s = .next { s with halt := .faulted .stackUnderflow })

/-- `0nnn` is a no-op (R132; which words are `0nnn` is the spec's decision D11, log 11). -/
def Obligations.SystemWordDoesNothing : Prop :=
  ∀ (nnn : Addr12) (s : State),
    (nnn ≠ 0x0E0#12 → nnn ≠ 0x0EE#12 → decode (BitVec.ofNat 16 nnn.toNat) = .ok (.sys nnn)) ∧
    exec (.sys nnn) s = .next s

/-- `1nnn` (R133). -/
def Obligations.JumpSetsPc : Prop :=
  ∀ (nnn : Addr12) (s : State),
    decode (BitVec.ofNat 16 (0x1000 + nnn.toNat)) = .ok (.jp nnn) ∧
    exec (.jp nnn) s = .next { s with pc := BitVec.ofNat 16 nnn.toNat }

/-- `2nnn` (R134): PC, the instruction's own address plus 2, is pushed; a full stack overflows with nothing else
changed; the state after a fault is the spec's decision D13, log 7. -/
def Obligations.CallPushesOrOverflows : Prop :=
  ∀ (nnn : Addr12) (s : State),
    decode (BitVec.ofNat 16 (0x2000 + nnn.toNat)) = .ok (.call nnn) ∧
    (s.stack.length < 16 → exec (.call nnn) s =
      .next { s with stack := s.pc :: s.stack, sp := s.sp + 1, pc := BitVec.ofNat 16 nnn.toNat }) ∧
    (s.stack.length = 16 → exec (.call nnn) s = .next { s with halt := .faulted .stackOverflow })

/-- A call and then a return leave the state as it was after the call's own fetch (R131, R134, R140). -/
def Obligations.ReturnUndoesCall : Prop :=
  ∀ (nnn : Addr12) (s t : State), s.stack.length < 16 → exec (.call nnn) s = .next t → exec .ret t = .next s

/-- `3xkk` and `4xkk` (R135, R136). -/
def Obligations.SkipsOnLiteral : Prop :=
  ∀ (x : RegIdx) (kk : Byte) (s : State),
    decode (BitVec.ofNat 16 (0x3000 + x.val * 0x100 + kk.toNat)) = .ok (.seImm x kk) ∧
    decode (BitVec.ofNat 16 (0x4000 + x.val * 0x100 + kk.toNat)) = .ok (.sneImm x kk) ∧
    exec (.seImm x kk) s = .next { s with pc := if s.getV x = kk then s.pc + 2 else s.pc } ∧
    exec (.sneImm x kk) s = .next { s with pc := if s.getV x = kk then s.pc else s.pc + 2 }

/-- `5xy0` and `9xy0` (R137, R138). -/
def Obligations.SkipsOnRegisters : Prop :=
  ∀ (x y : RegIdx) (s : State),
    decode (BitVec.ofNat 16 (0x5000 + x.val * 0x100 + y.val * 0x10)) = .ok (.seReg x y) ∧
    decode (BitVec.ofNat 16 (0x9000 + x.val * 0x100 + y.val * 0x10)) = .ok (.sneReg x y) ∧
    exec (.seReg x y) s = .next { s with pc := if s.getV x = s.getV y then s.pc + 2 else s.pc } ∧
    exec (.sneReg x y) s = .next { s with pc := if s.getV x = s.getV y then s.pc else s.pc + 2 }

/-- `Bnnn`, and `Bxnn` under `Q_JUMP`: the sum is not reduced (R139; the reading of `Bxnn` is the spec's
decision D10, log 12). -/
def Obligations.JumpWithOffset : Prop :=
  ∀ (nnn : Addr12) (s : State),
    decode (BitVec.ofNat 16 (0xB000 + nnn.toNat)) = .ok (.jpOff nnn) ∧
    ∃ t, exec (.jpOff nnn) s = .next t ∧ t = { s with pc := t.pc } ∧
      (s.cfg.qJump = false → t.pc.toNat = nnn.toNat + (s.getV 0).toNat) ∧
      (s.cfg.qJump = true → ∀ (x : RegIdx) (kk : Byte), nnn.toNat = x.val * 0x100 + kk.toNat →
        t.pc.toNat = kk.toNat + (s.getV x).toNat)

/-! ### Loads, arithmetic, logic, shifts, random -/

/-- `6xkk` and `8xy0` (R152, R154). -/
def Obligations.LoadsWriteTheirRegister : Prop :=
  (∀ (x : RegIdx) (kk : Byte) (s : State),
    decode (BitVec.ofNat 16 (0x6000 + x.val * 0x100 + kk.toNat)) = .ok (.ldImm x kk) ∧
    ∃ t, exec (.ldImm x kk) s = .next t ∧ t = { s with v := t.v } ∧
      t.getV x = kk ∧ ∀ r, r ≠ x → t.getV r = s.getV r) ∧
  ∀ (x y : RegIdx) (s : State),
    decode (BitVec.ofNat 16 (0x8000 + x.val * 0x100 + y.val * 0x10)) = .ok (.ldReg x y) ∧
    ∃ t, exec (.ldReg x y) s = .next t ∧ t = { s with v := t.v } ∧
      t.getV x = s.getV y ∧ ∀ r, r ≠ x → t.getV r = s.getV r

/-- `7xkk`: modulo 256, and VF is no flag here (R153). -/
def Obligations.AddLiteralWrapsWithoutFlag : Prop :=
  ∀ (x : RegIdx) (kk : Byte) (s : State),
    decode (BitVec.ofNat 16 (0x7000 + x.val * 0x100 + kk.toNat)) = .ok (.addImm x kk) ∧
    ∃ t, exec (.addImm x kk) s = .next t ∧ t = { s with v := t.v } ∧
      (t.getV x).toNat = ((s.getV x).toNat + kk.toNat) % 256 ∧ ∀ r, r ≠ x → t.getV r = s.getV r

/-- `8xy1`, `8xy2`, `8xy3`: bit by bit, and under `Q_LOGIC` VF is forced to 0 after the result, also when it is the
destination (R155 to R157). -/
def Obligations.LogicIsBitwiseAndMayClearVf : Prop :=
  ∀ (x y : RegIdx) (s : State),
    decode (BitVec.ofNat 16 (0x8001 + x.val * 0x100 + y.val * 0x10)) = .ok (.orReg x y) ∧
    decode (BitVec.ofNat 16 (0x8002 + x.val * 0x100 + y.val * 0x10)) = .ok (.andReg x y) ∧
    decode (BitVec.ofNat 16 (0x8003 + x.val * 0x100 + y.val * 0x10)) = .ok (.xorReg x y) ∧
    ∀ (i : Instr) (f : Bool → Bool → Bool),
      ((i = .orReg x y ∧ f = or) ∨ (i = .andReg x y ∧ f = and) ∨ (i = .xorReg x y ∧ f = xor)) →
      ∃ t, exec i s = .next t ∧ t = { s with v := t.v } ∧
        ((s.cfg.qLogic = false ∨ x ≠ vf) →
          ∀ b, b < 8 → (t.getV x).getLsbD b = f ((s.getV x).getLsbD b) ((s.getV y).getLsbD b)) ∧
        (s.cfg.qLogic = true → t.getV vf = 0) ∧
        ∀ r, r ≠ x → (s.cfg.qLogic = false ∨ r ≠ vf) → t.getV r = s.getV r

/-- `8xy4`: the sum modulo 256, and its carry in VF unless VF is the destination, where the sum lands last (R158,
R165; the order of the two writes is the spec's decision D3, log 10). -/
def Obligations.AddSetsCarry : Prop :=
  ∀ (x y : RegIdx) (s : State),
    decode (BitVec.ofNat 16 (0x8004 + x.val * 0x100 + y.val * 0x10)) = .ok (.addReg x y) ∧
    ∃ t, exec (.addReg x y) s = .next t ∧ t = { s with v := t.v } ∧
      (t.getV x).toNat = ((s.getV x).toNat + (s.getV y).toNat) % 256 ∧
      (x ≠ vf → t.getV vf = if (s.getV x).toNat + (s.getV y).toNat > 255 then 1 else 0) ∧
      ∀ r, r ≠ x → r ≠ vf → t.getV r = s.getV r

/-- `8xy5` and `8xy7`: the difference modulo 256, and in VF whether the minuend is strictly greater, unless VF is the
destination, where the difference lands last (R159, R160, R165; decision D3, log 10). -/
def Obligations.SubtractSetsGreater : Prop :=
  ∀ (x y : RegIdx) (s : State),
    decode (BitVec.ofNat 16 (0x8005 + x.val * 0x100 + y.val * 0x10)) = .ok (.sub x y) ∧
    decode (BitVec.ofNat 16 (0x8007 + x.val * 0x100 + y.val * 0x10)) = .ok (.subn x y) ∧
    (∃ t, exec (.sub x y) s = .next t ∧ t = { s with v := t.v } ∧
      ((t.getV x).toNat : Int) = ((s.getV x).toNat - (s.getV y).toNat : Int) % 256 ∧
      (x ≠ vf → t.getV vf = if (s.getV x).toNat > (s.getV y).toNat then 1 else 0) ∧
      ∀ r, r ≠ x → r ≠ vf → t.getV r = s.getV r) ∧
    ∃ t, exec (.subn x y) s = .next t ∧ t = { s with v := t.v } ∧
      ((t.getV x).toNat : Int) = ((s.getV y).toNat - (s.getV x).toNat : Int) % 256 ∧
      (x ≠ vf → t.getV vf = if (s.getV y).toNat > (s.getV x).toNat then 1 else 0) ∧
      ∀ r, r ≠ x → r ≠ vf → t.getV r = s.getV r

/-- `8xy6` and `8xyE`: one bit, of Vy under `Q_SHIFT` and of Vx otherwise, filling with 0; the bit shifted out goes to
VF, unless VF is the destination, where the result lands last (R161, R162, R165; decision D3, log 10). -/
def Obligations.ShiftsSetTheBitShiftedOut : Prop :=
  ∀ (x y : RegIdx) (s : State) (o : Nat), o = (if s.cfg.qShift then s.getV y else s.getV x).toNat →
    decode (BitVec.ofNat 16 (0x8006 + x.val * 0x100 + y.val * 0x10)) = .ok (.shr x y) ∧
    decode (BitVec.ofNat 16 (0x800E + x.val * 0x100 + y.val * 0x10)) = .ok (.shl x y) ∧
    (∃ t, exec (.shr x y) s = .next t ∧ t = { s with v := t.v } ∧
      (t.getV x).toNat = o / 2 ∧ (x ≠ vf → (t.getV vf).toNat = o % 2) ∧
      ∀ r, r ≠ x → r ≠ vf → t.getV r = s.getV r) ∧
    ∃ t, exec (.shl x y) s = .next t ∧ t = { s with v := t.v } ∧
      (t.getV x).toNat = o * 2 % 256 ∧ (x ≠ vf → (t.getV vf).toNat = o / 128) ∧
      ∀ r, r ≠ x → r ≠ vf → t.getV r = s.getV r

/-- `Cxkk`: whatever byte the random source delivers, masked (R163). -/
def Obligations.RandomByteIsMasked : Prop :=
  ∀ (x : RegIdx) (kk : Byte) (s : State),
    decode (BitVec.ofNat 16 (0xC000 + x.val * 0x100 + kk.toNat)) = .ok (.rnd x kk) ∧
    ∃ t, exec (.rnd x kk) s = .next t ∧ t = { s with v := t.v } ∧
      (∀ b, b < 8 → (t.getV x).getLsbD b = (s.input.draw.getLsbD b && kk.getLsbD b)) ∧
      ∀ r, r ≠ x → t.getV r = s.getV r

/-! ### The index register and memory transfers -/

/-- `Annn` and `Fx29` (R180, R182). -/
def Obligations.IndexLoads : Prop :=
  (∀ (nnn : Addr12) (s : State),
    decode (BitVec.ofNat 16 (0xA000 + nnn.toNat)) = .ok (.ldI nnn) ∧
    exec (.ldI nnn) s = .next { s with i := BitVec.ofNat 16 nnn.toNat }) ∧
  ∀ (x : RegIdx) (s : State),
    decode (BitVec.ofNat 16 (0xF029 + x.val * 0x100)) = .ok (.ldFont x) ∧
    exec (.ldFont x) s = .next { s with i := BitVec.ofNat 16 ((s.getV x).toNat % 16 * 5) }

/-- `Fx1E`: the sum modulo 4096, and VF always says whether it passed `0xFFF` (R181; that
the reduction is real is the spec's decision D12, log 22). -/
def Obligations.AddToIndexReportsOverflow : Prop :=
  ∀ (x : RegIdx) (s : State),
    decode (BitVec.ofNat 16 (0xF01E + x.val * 0x100)) = .ok (.addI x) ∧
    ∃ t, exec (.addI x) s = .next t ∧ t = { s with v := t.v, i := t.i } ∧
      t.i.toNat = (s.i.toNat + (s.getV x).toNat) % 4096 ∧
      t.getV vf = (if s.i.toNat + (s.getV x).toNat > 0xFFF then 1 else 0) ∧
      ∀ r, r ≠ vf → t.getV r = s.getV r

/-- `Fx33`: the three decimal digits at I, I+1, I+2; past `0xFFF` it faults at the lowest failing address, with the
digits below it stored (R183; what a fault leaves is decision D13, logs 7 and 9). -/
def Obligations.BcdStoresThreeDigits : Prop :=
  ∀ (x : RegIdx) (s : State) (a : Nat), a = (s.getV x).toNat →
    decode (BitVec.ofNat 16 (0xF033 + x.val * 0x100)) = .ok (.ldBcd x) ∧
    (s.effAddr 2 ≤ 0xFFF → ∃ t, exec (.ldBcd x) s = .next t ∧ t = { s with mem := t.mem } ∧
      (t.peek (s.effAddr 0)).toNat = a / 100 ∧ (t.peek (s.effAddr 1)).toNat = a / 10 % 10 ∧
      (t.peek (s.effAddr 2)).toNat = a % 10 ∧
      ∀ m, m < s.effAddr 0 ∨ s.effAddr 2 < m → t.peek m = s.peek m) ∧
    (0xFFF < s.effAddr 2 → ∃ t, exec (.ldBcd x) s = .next t ∧
      t = { s with mem := t.mem, halt := .faulted (.addressOutOfRange (max (s.effAddr 0) 0x1000)) } ∧
      (s.effAddr 0 ≤ 0xFFF → (t.peek (s.effAddr 0)).toNat = a / 100) ∧
      (s.effAddr 1 ≤ 0xFFF → (t.peek (s.effAddr 1)).toNat = a / 10 % 10) ∧
      ∀ m, m < s.effAddr 0 ∨ 0xFFF < m → t.peek m = s.peek m)

/-- `Fx55`: registers V0 to Vx at I and up; past `0xFFF` it faults at the lowest failing address, with the bytes below
it stored and I unchanged (R184; that I is not masked is decision D12, log 22, what a fault leaves
decision D13, logs 7 and 9). -/
def Obligations.StoreRegisters : Prop :=
  ∀ (x : RegIdx) (s : State),
    decode (BitVec.ofNat 16 (0xF055 + x.val * 0x100)) = .ok (.stRegs x) ∧
    (s.effAddr x.val ≤ 0xFFF → ∃ t, exec (.stRegs x) s = .next t ∧ t = { s with mem := t.mem, i := t.i } ∧
      (∀ r, r ≤ x → t.peek (s.effAddr r.val) = s.getV r) ∧
      (∀ m, m < s.effAddr 0 ∨ s.effAddr x.val < m → t.peek m = s.peek m) ∧
      t.i.toNat = if s.cfg.qLoadStore then s.i.toNat + x.val + 1 else s.i.toNat) ∧
    (0xFFF < s.effAddr x.val → ∃ t, exec (.stRegs x) s = .next t ∧
      t = { s with mem := t.mem, halt := .faulted (.addressOutOfRange (max (s.effAddr 0) 0x1000)) } ∧
      (∀ r, r ≤ x → s.effAddr r.val ≤ 0xFFF → t.peek (s.effAddr r.val) = s.getV r) ∧
      ∀ m, m < s.effAddr 0 ∨ 0xFFF < m → t.peek m = s.peek m)

/-- `Fx65`: registers V0 to Vx from I and up; past `0xFFF` it faults at the lowest failing address, with the registers
below it loaded and I unchanged (R185; decision D12, log 22; what a fault leaves is decision D13, logs 7
and 9). -/
def Obligations.LoadRegisters : Prop :=
  ∀ (x : RegIdx) (s : State),
    decode (BitVec.ofNat 16 (0xF065 + x.val * 0x100)) = .ok (.ldRegs x) ∧
    (s.effAddr x.val ≤ 0xFFF → ∃ t, exec (.ldRegs x) s = .next t ∧ t = { s with v := t.v, i := t.i } ∧
      (∀ r, r ≤ x → t.getV r = s.peek (s.effAddr r.val)) ∧ (∀ r, x < r → t.getV r = s.getV r) ∧
      t.i.toNat = if s.cfg.qLoadStore then s.i.toNat + x.val + 1 else s.i.toNat) ∧
    (0xFFF < s.effAddr x.val → ∃ t, exec (.ldRegs x) s = .next t ∧
      t = { s with v := t.v, halt := .faulted (.addressOutOfRange (max (s.effAddr 0) 0x1000)) } ∧
      (∀ r, r ≤ x → s.effAddr r.val ≤ 0xFFF → t.getV r = s.peek (s.effAddr r.val)) ∧
      ∀ r, x < r ∨ 0xFFF < s.effAddr r.val → t.getV r = s.getV r)

/-- What `Fx55` stores, `Fx65` from the same I loads back, whatever the V registers hold in between (R185). -/
def Obligations.LoadRestoresWhatStoreSaved : Prop :=
  ∀ (x : RegIdx) (s t u : State) (w : Vector Byte 16), s.effAddr x.val ≤ 0xFFF →
    exec (.stRegs x) s = .next t → exec (.ldRegs x) { t with v := w, i := s.i } = .next u →
    (∀ r, r ≤ x → u.getV r = s.getV r) ∧ (∀ r, x < r → u.getV r = w.get r) ∧ ∀ m, u.peek m = t.peek m

/-! ### The display -/

/-- `00E0`: every pixel off, VF not written, no render requested (R200; decision D28, log 17). -/
def Obligations.ClearTurnsEveryPixelOff : Prop :=
  decode 0x00E0#16 = .ok .cls ∧
  ∀ s : State, ∃ t, exec .cls s = .next t ∧ t = { s with fb := t.fb } ∧ ∀ px py, px < 64 → py < 32 → t.pixel px py = false

/-- `Dxyn`: each lit bit of the n rows flips its wrapped pixel, VF says whether a pixel went from on to off, and one
render is requested; a row past `0xFFF` faults with the rows before it drawn (R201 to R203; every pixel wraps by the
spec's decision D6, rows are read as they are drawn by D7, log 13; what a fault leaves is D13, logs 7 and 9). -/
def Obligations.DrawXorsTheSprite : Prop :=
  ∀ (x y : RegIdx) (n : Fin 16) (s : State) (x0 y0 : Nat), x0 = (s.getV x).toNat % 64 → y0 = (s.getV y).toNat % 32 →
    decode (BitVec.ofNat 16 (0xD000 + x.val * 0x100 + y.val * 0x10 + n.val)) = .ok (.drw x y n) ∧
    (n.val = 0 ∨ s.effAddr n.val ≤ 0x1000 → ∃ t, exec (.drw x y n) s = .next t ∧
      t = { s with v := t.v, fb := t.fb, renders := s.renders + 1 } ∧
      (∀ px py, px < 64 → py < 32 → s.flipsWhen t px py (s.spriteLit x0 y0 n.val px py)) ∧
      ((∃ px py, px < 64 ∧ py < 32 ∧ s.pixel px py = true ∧ t.pixel px py = false) → t.getV vf = 1) ∧
      ((¬ ∃ px py, px < 64 ∧ py < 32 ∧ s.pixel px py = true ∧ t.pixel px py = false) → t.getV vf = 0) ∧
      ∀ r, r ≠ vf → t.getV r = s.getV r) ∧
    (n.val ≠ 0 → 0x1000 < s.effAddr n.val → ∃ t, exec (.drw x y n) s = .next t ∧
      t = { s with fb := t.fb, halt := .faulted (.addressOutOfRange (max (s.effAddr 0) 0x1000)) } ∧
      ∀ px py, px < 64 → py < 32 → s.flipsWhen t px py (s.spriteLit x0 y0 (0x1000 - s.effAddr 0) px py))

/-- Drawing the same sprite twice at the same place restores the display; the second draw collides exactly when the
sprite lights a pixel that was off before the first (R201; the condition R203 item 5 leaves out, log 20). -/
def Obligations.DrawingTwiceRestoresTheDisplay : Prop :=
  ∀ (x y : RegIdx) (n : Fin 16) (s t u : State), x ≠ vf → y ≠ vf → (n.val = 0 ∨ s.effAddr n.val ≤ 0x1000) →
    exec (.drw x y n) s = .next t → exec (.drw x y n) t = .next u →
    (∀ px py, px < 64 → py < 32 → u.pixel px py = s.pixel px py) ∧
    (u.getV vf = 1 ↔ ∃ px py, px < 64 ∧ py < 32 ∧ s.pixel px py = false ∧
      s.spriteLit ((s.getV x).toNat % 64) ((s.getV y).toNat % 32) n.val px py)

/-! ### The keypad and the timers -/

/-- `Ex9E` and `ExA1`: the key numbered by the whole byte Vx, none above `0xF` (R210, R211; the latter by the spec's
decision D8, log 21). -/
def Obligations.KeySkipsAreComplements : Prop :=
  ∀ (x : RegIdx) (s : State),
    decode (BitVec.ofNat 16 (0xE09E + x.val * 0x100)) = .ok (.skp x) ∧
    decode (BitVec.ofNat 16 (0xE0A1 + x.val * 0x100)) = .ok (.sknp x) ∧
    ((∃ k : RegIdx, (s.getV x).toNat = k.val ∧ s.input.keys.getLsbD k.val = true) →
      exec (.skp x) s = .next { s with pc := s.pc + 2 } ∧ exec (.sknp x) s = .next s) ∧
    ((¬ ∃ k : RegIdx, (s.getV x).toNat = k.val ∧ s.input.keys.getLsbD k.val = true) →
      exec (.skp x) s = .next s ∧ exec (.sknp x) s = .next { s with pc := s.pc + 2 })

/-- `Fx0A`: with no key down PC goes back to the instruction; else Vx is a key that is down, and any key that is down
can be the one (R212; the choice is free by the spec's decision D9; that it is made by `input.pick` is the model's, log
6). -/
def Obligations.WaitForKeyRepeatsOrReads : Prop :=
  ∀ (x : RegIdx) (s : State),
    decode (BitVec.ofNat 16 (0xF00A + x.val * 0x100)) = .ok (.ldKey x) ∧
    (s.input.keys = 0 → exec (.ldKey x) s = .next { s with pc := s.pc - 2 }) ∧
    (s.input.keys ≠ 0 → ∃ t, exec (.ldKey x) s = .next t ∧ t = { s with v := t.v } ∧
      (∃ k : RegIdx, s.input.keys.getLsbD k.val = true ∧ (t.getV x).toNat = k.val) ∧
      ∀ r, r ≠ x → t.getV r = s.getV r) ∧
    ∀ k : RegIdx, s.input.keys.getLsbD k.val = true →
      ∃ t, exec (.ldKey x) { s with input := { s.input with pick := k } } = .next t ∧ (t.getV x).toNat = k.val

/-- `Fx07`, `Fx15`, `Fx18` (R213 to R215). -/
def Obligations.TimerRegistersAreReadAndSet : Prop :=
  ∀ (x : RegIdx) (s : State),
    decode (BitVec.ofNat 16 (0xF007 + x.val * 0x100)) = .ok (.ldFromDt x) ∧
    decode (BitVec.ofNat 16 (0xF015 + x.val * 0x100)) = .ok (.ldDt x) ∧
    decode (BitVec.ofNat 16 (0xF018 + x.val * 0x100)) = .ok (.ldSt x) ∧
    (∃ t, exec (.ldFromDt x) s = .next t ∧ t = { s with v := t.v } ∧
      t.getV x = s.dt ∧ ∀ r, r ≠ x → t.getV r = s.getV r) ∧
    exec (.ldDt x) s = .next { s with dt := s.getV x } ∧
    exec (.ldSt x) s = .next { s with st := s.getV x }

/-! ### Rules of the whole machine -/

/-- The invariant holds after reset and launch, whatever the configuration of at least 60 Hz, the display and the
program image (R25, R28, R31, R34, R70). That it holds at `State.reset` needs the F of at least 60 the model names there
(log 2); canonical memory is the model's form (log 19), and TICK is 0 at reset by the spec's decision D5 (log 14). -/
def Obligations.LaunchSatisfiesTheInvariant : Prop :=
  State.reset.Inv ∧
  ∀ (cfg : Config) (fb : Display) (image : List Byte), 60 ≤ cfg.freq → (State.launch cfg fb image).Inv

/-- Every step keeps the invariant: canonical memory, SP the size of a stack of at most 16 return addresses, PC at most
`0x10FE`, I at most `0x1000`, TICK below TIMER_DIV (R25, R28, R30, R31, R34; canonical memory is the model's form,
log 19, and the range of TICK rests on decisions D4 and D5, log 14). -/
def Obligations.StepKeepsTheInvariant : Prop :=
  ∀ s t : State, s.Inv → step s = .next t → t.Inv

/-- Only the V registers of R22 and R23 can change. -/
def Obligations.OnlyListedRegistersChange : Prop :=
  ∀ (i : Instr) (s t : State) (r : RegIdx), exec i s = .next t → t.getV r ≠ s.getV r → mayWriteV s.cfg r i

/-- Every other piece of state is changed only by its own instructions, and the configuration and the cycle's inputs by
none (R24, R26, R30, R32, R33, R35, R62, R247). -/
def Obligations.StateChangesOnlyByItsInstructions : Prop :=
  ∀ (i : Instr) (s t : State), exec i s = .next t →
    ((∃ m, t.peek m ≠ s.peek m) → ∃ x, i = .ldBcd x ∨ i = .stRegs x) ∧
    (t.i ≠ s.i → ∃ x nnn, i = .ldI nnn ∨ i = .addI x ∨ i = .ldFont x ∨
      (s.cfg.qLoadStore = true ∧ (i = .stRegs x ∨ i = .ldRegs x))) ∧
    (t.pc ≠ s.pc → ∃ x y nnn kk, i = .ret ∨ i = .jp nnn ∨ i = .call nnn ∨ i = .jpOff nnn ∨ i = .seImm x kk ∨
      i = .sneImm x kk ∨ i = .seReg x y ∨ i = .sneReg x y ∨ i = .skp x ∨ i = .sknp x ∨ i = .ldKey x) ∧
    ((t.stack ≠ s.stack ∨ t.sp ≠ s.sp) → ∃ nnn, i = .ret ∨ i = .call nnn) ∧
    (t.dt ≠ s.dt → ∃ x, i = .ldDt x) ∧
    (t.st ≠ s.st → ∃ x, i = .ldSt x) ∧
    (t.fb ≠ s.fb → ∃ x y n, i = .cls ∨ i = .drw x y n) ∧
    (t.renders ≠ s.renders → ∃ x y n, i = .drw x y n) ∧
    t.tick = s.tick ∧ t.cfg = s.cfg ∧ t.input = s.input ∧ t.inputs = s.inputs ∧ t.cycle = s.cycle

/-- The configuration is immutable for the lifetime of a run (R35, R36). -/
def Obligations.ConfigurationIsImmutable : Prop :=
  ∀ (n : Nat) (s t : State), core.run n s = .next t → t.cfg = s.cfg

/-- The delay timer rises only when the cycle's instruction is `Fx15` (R32). -/
def Obligations.DelayTimerRisesOnlyByFx15 : Prop :=
  ∀ s t : State, step s = .next t → s.dt.toNat < t.dt.toNat → ∃ x, s.about (.ldDt x)

/-- Every fault a step enters has one of the causes of R231, R233, R234 and R236; ValueOutOfRange and
InvalidMask are never entered (R232, R235). -/
def Obligations.EveryFaultHasItsCause : Prop :=
  ∀ (s t : State) (k : FaultKind), step s = .next t → t.halt = .faulted k →
    (∃ a, k = .addressOutOfRange a ∧ 0xFFF < a ∧ (0xFFE < s.pc.toNat ∨
      ∃ i x y n, s.about i ∧ (i = .drw x y n ∨ i = .ldBcd x ∨ i = .stRegs x ∨ i = .ldRegs x))) ∨
    (k = .unknownOpcode s.wordAtPc ∧ s.pc.toNat ≤ 0xFFE ∧ ∀ i, decode s.wordAtPc ≠ .ok i) ∨
    (k = .stackOverflow ∧ 16 ≤ s.stack.length ∧ ∃ nnn, s.about (.call nnn)) ∨
    (k = .stackUnderflow ∧ s.stack = [] ∧ s.about .ret)

/-- The sound timer has no effect on anything else: two runs that differ in ST alone stay alike in everything but ST
(R33, R252). -/
def Obligations.SoundTimerInfluencesNothing : Prop :=
  ∀ (n : Nat) (s : State) (b : Byte),
    match core.run n s, core.run n { s with st := b } with
    | .next t, .next u => { t with st := 0 } = { u with st := 0 }
    | .fault k, .fault k' => k = k'
    | .refused r, .refused r' => r = r'
    | _, _ => False
end

