-- ==== Sys2Proof/Laws/Decode.lean ====
section
/-! SUPPORT. The fields of the words of the six formats, and that a rejection carries its word. -/

namespace Sys2Proof

@[simp] theorem nibble_toFin (x : Fin 16) : (nibble x).toFin = x := rfl

@[simp] theorem topOf_wordNNN (t : BitVec 4) (a : Addr12) : topOf (wordNNN t a) = t := by
  unfold topOf
  refine BitVec.eq_of_getLsbD_eq fun i hi => ?_
  simp only [wordNNN, BitVec.getLsbD_extractLsb', BitVec.getLsbD_append, hi, decide_true, Bool.true_and]
  rw [if_neg (show ¬ 12 + i < 12 by omega)]
  congr 1; omega

@[simp] theorem nnnOf_wordNNN (t : BitVec 4) (a : Addr12) : nnnOf (wordNNN t a) = a := by
  unfold nnnOf
  refine BitVec.eq_of_getLsbD_eq fun i hi => ?_
  simp only [wordNNN, BitVec.getLsbD_extractLsb', BitVec.getLsbD_append, hi, decide_true, Bool.true_and, Nat.zero_add, if_true]

@[simp] theorem topOf_wordXKK (t : BitVec 4) (x : RegIdx) (kk : Byte) : topOf (wordXKK t x kk) = t := by
  unfold topOf
  refine BitVec.eq_of_getLsbD_eq fun i hi => ?_
  simp only [wordXKK, BitVec.getLsbD_extractLsb', BitVec.getLsbD_append, hi, decide_true, Bool.true_and]
  rw [if_neg (show ¬ 12 + i < 8 by omega), if_neg (show ¬ 12 + i - 8 < 4 by omega)]
  congr 1; omega

@[simp] theorem xOf_wordXKK (t : BitVec 4) (x : RegIdx) (kk : Byte) : xOf (wordXKK t x kk) = x := by
  refine congrArg BitVec.toFin (?_ : _ = nibble x)
  refine BitVec.eq_of_getLsbD_eq fun i hi => ?_
  simp only [wordXKK, BitVec.getLsbD_extractLsb', BitVec.getLsbD_append, hi, decide_true, Bool.true_and]
  rw [if_neg (show ¬ 8 + i < 8 by omega), if_pos (show 8 + i - 8 < 4 by omega)]
  congr 1; omega

@[simp] theorem kkOf_wordXKK (t : BitVec 4) (x : RegIdx) (kk : Byte) : kkOf (wordXKK t x kk) = kk := by
  unfold kkOf
  refine BitVec.eq_of_getLsbD_eq fun i hi => ?_
  simp only [wordXKK, BitVec.getLsbD_extractLsb', BitVec.getLsbD_append, hi, decide_true, Bool.true_and, Nat.zero_add, if_true]

@[simp] theorem topOf_wordXYN (t : BitVec 4) (x y n : Fin 16) : topOf (wordXYN t x y n) = t := by
  unfold topOf
  refine BitVec.eq_of_getLsbD_eq fun i hi => ?_
  simp only [wordXYN, BitVec.getLsbD_extractLsb', BitVec.getLsbD_append, hi, decide_true, Bool.true_and]
  rw [if_neg (show ¬ 12 + i < 4 by omega), if_neg (show ¬ 12 + i - 4 < 4 by omega), if_neg (show ¬ 12 + i - 4 - 4 < 4 by omega)]
  congr 1; omega

@[simp] theorem xOf_wordXYN (t : BitVec 4) (x y n : Fin 16) : xOf (wordXYN t x y n) = x := by
  refine congrArg BitVec.toFin (?_ : _ = nibble x)
  refine BitVec.eq_of_getLsbD_eq fun i hi => ?_
  simp only [wordXYN, BitVec.getLsbD_extractLsb', BitVec.getLsbD_append, hi, decide_true, Bool.true_and]
  rw [if_neg (show ¬ 8 + i < 4 by omega), if_neg (show ¬ 8 + i - 4 < 4 by omega), if_pos (show 8 + i - 4 - 4 < 4 by omega)]
  congr 1; omega

@[simp] theorem yOf_wordXYN (t : BitVec 4) (x y n : Fin 16) : yOf (wordXYN t x y n) = y := by
  refine congrArg BitVec.toFin (?_ : _ = nibble y)
  refine BitVec.eq_of_getLsbD_eq fun i hi => ?_
  simp only [wordXYN, BitVec.getLsbD_extractLsb', BitVec.getLsbD_append, hi, decide_true, Bool.true_and]
  rw [if_neg (show ¬ 4 + i < 4 by omega), if_pos (show 4 + i - 4 < 4 by omega)]
  congr 1; omega

@[simp] theorem nOf_wordXYN (t : BitVec 4) (x y n : Fin 16) : nOf (wordXYN t x y n) = n := by
  refine congrArg BitVec.toFin (?_ : _ = nibble n)
  refine BitVec.eq_of_getLsbD_eq fun i hi => ?_
  simp only [wordXYN, BitVec.getLsbD_extractLsb', BitVec.getLsbD_append, hi, decide_true, Bool.true_and, Nat.zero_add, if_true]

/-- A word is the word of its top nibble and its address literal. -/
theorem wordNNN_fields (op : Word) : wordNNN (topOf op) (nnnOf op) = op := by
  simp only [wordNNN, topOf, nnnOf]
  apply BitVec.eq_of_getLsbD_eq; intro i hi
  simp only [BitVec.getLsbD_append, BitVec.getLsbD_extractLsb']
  split_ifs with h
  · simp [h]
  · simp only [show i - 12 < 4 by omega, decide_true, Bool.true_and]; congr 1; omega

/-- A word is the word of its top nibble, its x and its byte literal. -/
theorem wordXKK_fields (op : Word) : wordXKK (topOf op) (xOf op) (kkOf op) = op := by
  simp only [wordXKK, topOf, xOf, kkOf, nibble]
  apply BitVec.eq_of_getLsbD_eq; intro i hi
  simp only [BitVec.getLsbD_append, BitVec.getLsbD_extractLsb', BitVec.ofFin_toFin]
  split_ifs with h h2
  · simp [h]
  · simp only [h2, decide_true, Bool.true_and]; congr 1; omega
  · simp only [show i - 8 - 4 < 4 by omega, decide_true, Bool.true_and]; congr 1; omega

/-- A word is the word of its four nibbles. -/
theorem wordXYN_fields (op : Word) : wordXYN (topOf op) (xOf op) (yOf op) (nOf op) = op := by
  simp only [wordXYN, topOf, xOf, yOf, nOf, nibble]
  apply BitVec.eq_of_getLsbD_eq; intro i hi
  simp only [BitVec.getLsbD_append, BitVec.getLsbD_extractLsb', BitVec.ofFin_toFin]
  split_ifs with h h2 h3
  · simp [h]
  · simp only [h2, decide_true, Bool.true_and]; congr 1; omega
  · simp only [h3, decide_true, Bool.true_and]; congr 1; omega
  · simp only [show i - 4 - 4 - 4 < 4 by omega, decide_true, Bool.true_and]; congr 1; omega

/-- The word of format NNN as a number. -/
theorem wordNNN_toNat (t : BitVec 4) (a : Addr12) : (wordNNN t a).toNat = t.toNat * 0x1000 + a.toNat := by
  simp only [wordNNN, BitVec.toNat_append]
  rw [Nat.shiftLeft_eq, Nat.mul_comm, ← Nat.two_pow_add_eq_or_of_lt a.isLt]

/-- The word of format XKK as a number. -/
theorem wordXKK_toNat (t : BitVec 4) (x : RegIdx) (kk : Byte) :
    (wordXKK t x kk).toNat = t.toNat * 0x1000 + x.val * 0x100 + kk.toNat := by
  have hx : (nibble x).toNat = x.val := rfl
  simp only [wordXKK, BitVec.toNat_append]
  rw [Nat.shiftLeft_eq, Nat.mul_comm _ (2 ^ 8), ← Nat.two_pow_add_eq_or_of_lt kk.isLt,
    Nat.shiftLeft_eq, Nat.mul_comm _ (2 ^ 4), ← Nat.two_pow_add_eq_or_of_lt (nibble x).isLt, hx]
  omega

/-- The word of format XYN as a number. -/
theorem wordXYN_toNat (t : BitVec 4) (x y n : Fin 16) :
    (wordXYN t x y n).toNat = t.toNat * 0x1000 + x.val * 0x100 + y.val * 0x10 + n.val := by
  have hv : ∀ z : Fin 16, (nibble z).toNat = z.val := fun _ => rfl
  simp only [wordXYN, BitVec.toNat_append]
  rw [Nat.shiftLeft_eq, Nat.mul_comm _ (2 ^ 4), ← Nat.two_pow_add_eq_or_of_lt (nibble n).isLt,
    Nat.shiftLeft_eq, Nat.mul_comm _ (2 ^ 4), ← Nat.two_pow_add_eq_or_of_lt (nibble y).isLt,
    Nat.shiftLeft_eq, Nat.mul_comm _ (2 ^ 4), ← Nat.two_pow_add_eq_or_of_lt (nibble x).isLt, hv, hv, hv]
  omega

/-- A number that is a word of format NNN. -/
theorem ofNat_eq_wordNNN {k : Nat} (t : BitVec 4) (a : Addr12) (h : k = t.toNat * 0x1000 + a.toNat) :
    BitVec.ofNat 16 k = wordNNN t a := by
  apply BitVec.eq_of_toNat_eq
  rw [wordNNN_toNat, BitVec.toNat_ofNat, h]
  have := t.isLt; have := a.isLt; omega

/-- A number that is a word of format XKK. -/
theorem ofNat_eq_wordXKK {k : Nat} (t : BitVec 4) (x : RegIdx) (kk : Byte)
    (h : k = t.toNat * 0x1000 + x.val * 0x100 + kk.toNat) : BitVec.ofNat 16 k = wordXKK t x kk := by
  apply BitVec.eq_of_toNat_eq
  rw [wordXKK_toNat, BitVec.toNat_ofNat, h]
  have := t.isLt; have := x.isLt; have := kk.isLt; omega

/-- A number that is a word of format XYN. -/
theorem ofNat_eq_wordXYN {k : Nat} (t : BitVec 4) (x y n : Fin 16)
    (h : k = t.toNat * 0x1000 + x.val * 0x100 + y.val * 0x10 + n.val) : BitVec.ofNat 16 k = wordXYN t x y n := by
  apply BitVec.eq_of_toNat_eq
  rw [wordXYN_toNat, BitVec.toNat_ofNat, h]
  have := t.isLt; have := x.isLt; have := y.isLt; have := n.isLt; omega

/-- A word that is rejected is rejected with itself (R84, R98). -/
theorem decode_error {op : Word} {e : DecodeError} (h : decode op = .error e) : e = .unknownOpcode op := by
  unfold decode decodeFamily0 decodeFamily8 decodeFamilyE decodeFamilyF at h
  repeat' split at h
  all_goals simp_all

end Sys2Proof
end

