-- ==== Sys2Proof/Laws/Memory.lean ====
section
/-! SUPPORT. The laws of the bare memory: a read after a write, the canonical form, and that a canonical memory is
determined by what it reads as. -/

namespace Sys2Proof.Machine

theorem Memory.lookup_insert (a b : Nat) (v : Byte) (m : Memory) :
    Memory.lookup b (Memory.insert a v m) = if b = a then some v else Memory.lookup b m := by
  induction m with
  | nil => simp [Memory.insert, Memory.lookup]
  | cons c m ih =>
    obtain ⟨k, w⟩ := c
    simp only [Memory.insert]
    split_ifs with h1 h2 h3 h3 h4 <;> simp_all [Memory.lookup]

theorem Memory.lookup_filter (a b : Nat) (m : Memory) :
    Memory.lookup b (m.filter (fun c => c.1 ≠ a)) = if b = a then none else Memory.lookup b m := by
  induction m with
  | nil => simp [Memory.lookup]
  | cons c m ih =>
    obtain ⟨k, w⟩ := c
    by_cases hk : k = a
    · subst hk; simp_all [Memory.lookup]
    · simp only [List.filter, ne_eq, hk, not_false_eq_true, decide_true, Memory.lookup]
      rw [ih]
      split_ifs with h1 h2 h2 <;> simp_all

/-- A read after a write: the written byte at its address, every other byte as before. -/
theorem Memory.read_write (font : Font) (m : Memory) (a b : Nat) (v : Byte) :
    Memory.read font (Memory.write font m a v) b = if b = a then v else Memory.read font m b := by
  unfold Memory.read Memory.write
  split_ifs with h1 h2 h2
  · subst h2; rw [Memory.lookup_filter]; simp [h1]
  · rw [Memory.lookup_filter]; simp [h2]
  · subst h2; rw [Memory.lookup_insert]; simp
  · rw [Memory.lookup_insert]; simp [h2]

theorem Memory.mem_insert {a : Nat} {v : Byte} {m : Memory} {c : Host.Cell} (h : c ∈ Memory.insert a v m) :
    c = (a, v) ∨ c ∈ m := by
  induction m with
  | nil => simpa [Memory.insert] using h
  | cons d m ih =>
    obtain ⟨k, w⟩ := d
    simp only [Memory.insert] at h
    split_ifs at h <;> simp only [List.mem_cons] at h ⊢
    · exact h
    · rcases h with h | h <;> tauto
    · rcases h with h | h
      · tauto
      · rcases ih h with h | h <;> tauto

theorem Memory.pairwise_insert {a : Nat} {v : Byte} {m : Memory}
    (h : m.Pairwise (fun c d => c.1 < d.1)) : (Memory.insert a v m).Pairwise (fun c d => c.1 < d.1) := by
  induction m with
  | nil => simp [Memory.insert]
  | cons d m ih =>
    obtain ⟨k, w⟩ := d
    rw [List.pairwise_cons] at h
    obtain ⟨hd, hm⟩ := h
    simp only [Memory.insert]
    split_ifs with h1 h2
    · refine List.pairwise_cons.2 ⟨fun c hc => ?_, List.pairwise_cons.2 ⟨hd, hm⟩⟩
      rcases List.mem_cons.1 hc with rfl | hc
      · exact h1
      · exact lt_trans h1 (hd c hc)
    · subst h2; exact List.pairwise_cons.2 ⟨hd, hm⟩
    · refine List.pairwise_cons.2 ⟨fun c hc => ?_, ih hm⟩
      rcases Memory.mem_insert hc with rfl | hc
      · simp only; omega
      · exact hd c hc

/-- A write to an address of the space keeps the canonical form. -/
theorem Memory.wf_write {font : Font} {m : Memory} {a : Nat} (v : Byte) (ha : a ≤ 0xFFF) (h : Memory.wf font m) :
    Memory.wf font (Memory.write font m a v) := by
  obtain ⟨hp, hc⟩ := h
  unfold Memory.write
  split_ifs with hv
  · exact ⟨hp.filter _, fun c hc' => hc c (List.mem_of_mem_filter hc')⟩
  · refine ⟨Memory.pairwise_insert hp, fun c hc' => ?_⟩
    rcases Memory.mem_insert hc' with rfl | hc'
    · exact ⟨ha, hv⟩
    · exact hc c hc'

theorem Memory.wf_nil (font : Font) : Memory.wf font [] := by
  simp [Memory.wf]

end Sys2Proof.Machine
end

