-- ==== Sys2Proof/Laws/State.lean ====
section
/-! SUPPORT. One lemma per field per update of the state, so that no later proof unfolds a record update. -/

namespace Sys2Proof.Machine

/-! ### `V[x] <- b` -/

@[simp] theorem State.setV_v (s : State) (x : RegIdx) (b : Byte) : (s.setV x b).v = s.v.set x.val b x.isLt := rfl
@[simp] theorem State.setV_i (s : State) (x : RegIdx) (b : Byte) : (s.setV x b).i = s.i := rfl
@[simp] theorem State.setV_pc (s : State) (x : RegIdx) (b : Byte) : (s.setV x b).pc = s.pc := rfl
@[simp] theorem State.setV_sp (s : State) (x : RegIdx) (b : Byte) : (s.setV x b).sp = s.sp := rfl
@[simp] theorem State.setV_stack (s : State) (x : RegIdx) (b : Byte) : (s.setV x b).stack = s.stack := rfl
@[simp] theorem State.setV_dt (s : State) (x : RegIdx) (b : Byte) : (s.setV x b).dt = s.dt := rfl
@[simp] theorem State.setV_st (s : State) (x : RegIdx) (b : Byte) : (s.setV x b).st = s.st := rfl
@[simp] theorem State.setV_tick (s : State) (x : RegIdx) (b : Byte) : (s.setV x b).tick = s.tick := rfl
@[simp] theorem State.setV_mem (s : State) (x : RegIdx) (b : Byte) : (s.setV x b).mem = s.mem := rfl
@[simp] theorem State.setV_cfg (s : State) (x : RegIdx) (b : Byte) : (s.setV x b).cfg = s.cfg := rfl
@[simp] theorem State.setV_halt (s : State) (x : RegIdx) (b : Byte) : (s.setV x b).halt = s.halt := rfl
@[simp] theorem State.setV_fb (s : State) (x : RegIdx) (b : Byte) : (s.setV x b).fb = s.fb := rfl
@[simp] theorem State.setV_renders (s : State) (x : RegIdx) (b : Byte) : (s.setV x b).renders = s.renders := rfl
@[simp] theorem State.setV_input (s : State) (x : RegIdx) (b : Byte) : (s.setV x b).input = s.input := rfl
@[simp] theorem State.setV_inputs (s : State) (x : RegIdx) (b : Byte) : (s.setV x b).inputs = s.inputs := rfl
@[simp] theorem State.setV_cycle (s : State) (x : RegIdx) (b : Byte) : (s.setV x b).cycle = s.cycle := rfl

/-! ### `I <- a` -/

@[simp] theorem State.setI_v (s : State) (a : Word) : (s.setI a).v = s.v := rfl
@[simp] theorem State.setI_i (s : State) (a : Word) : (s.setI a).i = a := rfl
@[simp] theorem State.setI_pc (s : State) (a : Word) : (s.setI a).pc = s.pc := rfl
@[simp] theorem State.setI_sp (s : State) (a : Word) : (s.setI a).sp = s.sp := rfl
@[simp] theorem State.setI_stack (s : State) (a : Word) : (s.setI a).stack = s.stack := rfl
@[simp] theorem State.setI_dt (s : State) (a : Word) : (s.setI a).dt = s.dt := rfl
@[simp] theorem State.setI_st (s : State) (a : Word) : (s.setI a).st = s.st := rfl
@[simp] theorem State.setI_tick (s : State) (a : Word) : (s.setI a).tick = s.tick := rfl
@[simp] theorem State.setI_mem (s : State) (a : Word) : (s.setI a).mem = s.mem := rfl
@[simp] theorem State.setI_cfg (s : State) (a : Word) : (s.setI a).cfg = s.cfg := rfl
@[simp] theorem State.setI_halt (s : State) (a : Word) : (s.setI a).halt = s.halt := rfl
@[simp] theorem State.setI_fb (s : State) (a : Word) : (s.setI a).fb = s.fb := rfl
@[simp] theorem State.setI_renders (s : State) (a : Word) : (s.setI a).renders = s.renders := rfl
@[simp] theorem State.setI_input (s : State) (a : Word) : (s.setI a).input = s.input := rfl
@[simp] theorem State.setI_inputs (s : State) (a : Word) : (s.setI a).inputs = s.inputs := rfl
@[simp] theorem State.setI_cycle (s : State) (a : Word) : (s.setI a).cycle = s.cycle := rfl

/-! ### `PC <- a` -/

@[simp] theorem State.setPc_v (s : State) (a : Word) : (s.setPc a).v = s.v := rfl
@[simp] theorem State.setPc_i (s : State) (a : Word) : (s.setPc a).i = s.i := rfl
@[simp] theorem State.setPc_pc (s : State) (a : Word) : (s.setPc a).pc = a := rfl
@[simp] theorem State.setPc_sp (s : State) (a : Word) : (s.setPc a).sp = s.sp := rfl
@[simp] theorem State.setPc_stack (s : State) (a : Word) : (s.setPc a).stack = s.stack := rfl
@[simp] theorem State.setPc_dt (s : State) (a : Word) : (s.setPc a).dt = s.dt := rfl
@[simp] theorem State.setPc_st (s : State) (a : Word) : (s.setPc a).st = s.st := rfl
@[simp] theorem State.setPc_tick (s : State) (a : Word) : (s.setPc a).tick = s.tick := rfl
@[simp] theorem State.setPc_mem (s : State) (a : Word) : (s.setPc a).mem = s.mem := rfl
@[simp] theorem State.setPc_cfg (s : State) (a : Word) : (s.setPc a).cfg = s.cfg := rfl
@[simp] theorem State.setPc_halt (s : State) (a : Word) : (s.setPc a).halt = s.halt := rfl
@[simp] theorem State.setPc_fb (s : State) (a : Word) : (s.setPc a).fb = s.fb := rfl
@[simp] theorem State.setPc_renders (s : State) (a : Word) : (s.setPc a).renders = s.renders := rfl
@[simp] theorem State.setPc_input (s : State) (a : Word) : (s.setPc a).input = s.input := rfl
@[simp] theorem State.setPc_inputs (s : State) (a : Word) : (s.setPc a).inputs = s.inputs := rfl
@[simp] theorem State.setPc_cycle (s : State) (a : Word) : (s.setPc a).cycle = s.cycle := rfl

/-! ### `DT <- b` -/

@[simp] theorem State.setDt_v (s : State) (b : Byte) : (s.setDt b).v = s.v := rfl
@[simp] theorem State.setDt_i (s : State) (b : Byte) : (s.setDt b).i = s.i := rfl
@[simp] theorem State.setDt_pc (s : State) (b : Byte) : (s.setDt b).pc = s.pc := rfl
@[simp] theorem State.setDt_sp (s : State) (b : Byte) : (s.setDt b).sp = s.sp := rfl
@[simp] theorem State.setDt_stack (s : State) (b : Byte) : (s.setDt b).stack = s.stack := rfl
@[simp] theorem State.setDt_dt (s : State) (b : Byte) : (s.setDt b).dt = b := rfl
@[simp] theorem State.setDt_st (s : State) (b : Byte) : (s.setDt b).st = s.st := rfl
@[simp] theorem State.setDt_tick (s : State) (b : Byte) : (s.setDt b).tick = s.tick := rfl
@[simp] theorem State.setDt_mem (s : State) (b : Byte) : (s.setDt b).mem = s.mem := rfl
@[simp] theorem State.setDt_cfg (s : State) (b : Byte) : (s.setDt b).cfg = s.cfg := rfl
@[simp] theorem State.setDt_halt (s : State) (b : Byte) : (s.setDt b).halt = s.halt := rfl
@[simp] theorem State.setDt_fb (s : State) (b : Byte) : (s.setDt b).fb = s.fb := rfl
@[simp] theorem State.setDt_renders (s : State) (b : Byte) : (s.setDt b).renders = s.renders := rfl
@[simp] theorem State.setDt_input (s : State) (b : Byte) : (s.setDt b).input = s.input := rfl
@[simp] theorem State.setDt_inputs (s : State) (b : Byte) : (s.setDt b).inputs = s.inputs := rfl
@[simp] theorem State.setDt_cycle (s : State) (b : Byte) : (s.setDt b).cycle = s.cycle := rfl

/-! ### `ST <- b` -/

@[simp] theorem State.setSt_v (s : State) (b : Byte) : (s.setSt b).v = s.v := rfl
@[simp] theorem State.setSt_i (s : State) (b : Byte) : (s.setSt b).i = s.i := rfl
@[simp] theorem State.setSt_pc (s : State) (b : Byte) : (s.setSt b).pc = s.pc := rfl
@[simp] theorem State.setSt_sp (s : State) (b : Byte) : (s.setSt b).sp = s.sp := rfl
@[simp] theorem State.setSt_stack (s : State) (b : Byte) : (s.setSt b).stack = s.stack := rfl
@[simp] theorem State.setSt_dt (s : State) (b : Byte) : (s.setSt b).dt = s.dt := rfl
@[simp] theorem State.setSt_st (s : State) (b : Byte) : (s.setSt b).st = b := rfl
@[simp] theorem State.setSt_tick (s : State) (b : Byte) : (s.setSt b).tick = s.tick := rfl
@[simp] theorem State.setSt_mem (s : State) (b : Byte) : (s.setSt b).mem = s.mem := rfl
@[simp] theorem State.setSt_cfg (s : State) (b : Byte) : (s.setSt b).cfg = s.cfg := rfl
@[simp] theorem State.setSt_halt (s : State) (b : Byte) : (s.setSt b).halt = s.halt := rfl
@[simp] theorem State.setSt_fb (s : State) (b : Byte) : (s.setSt b).fb = s.fb := rfl
@[simp] theorem State.setSt_renders (s : State) (b : Byte) : (s.setSt b).renders = s.renders := rfl
@[simp] theorem State.setSt_input (s : State) (b : Byte) : (s.setSt b).input = s.input := rfl
@[simp] theorem State.setSt_inputs (s : State) (b : Byte) : (s.setSt b).inputs = s.inputs := rfl
@[simp] theorem State.setSt_cycle (s : State) (b : Byte) : (s.setSt b).cycle = s.cycle := rfl

/-! ### `PC <- PC + 2` -/

@[simp] theorem State.advancePc_v (s : State) : (s.advancePc).v = s.v := rfl
@[simp] theorem State.advancePc_i (s : State) : (s.advancePc).i = s.i := rfl
@[simp] theorem State.advancePc_pc (s : State) : (s.advancePc).pc = s.pc + 2 := rfl
@[simp] theorem State.advancePc_sp (s : State) : (s.advancePc).sp = s.sp := rfl
@[simp] theorem State.advancePc_stack (s : State) : (s.advancePc).stack = s.stack := rfl
@[simp] theorem State.advancePc_dt (s : State) : (s.advancePc).dt = s.dt := rfl
@[simp] theorem State.advancePc_st (s : State) : (s.advancePc).st = s.st := rfl
@[simp] theorem State.advancePc_tick (s : State) : (s.advancePc).tick = s.tick := rfl
@[simp] theorem State.advancePc_mem (s : State) : (s.advancePc).mem = s.mem := rfl
@[simp] theorem State.advancePc_cfg (s : State) : (s.advancePc).cfg = s.cfg := rfl
@[simp] theorem State.advancePc_halt (s : State) : (s.advancePc).halt = s.halt := rfl
@[simp] theorem State.advancePc_fb (s : State) : (s.advancePc).fb = s.fb := rfl
@[simp] theorem State.advancePc_renders (s : State) : (s.advancePc).renders = s.renders := rfl
@[simp] theorem State.advancePc_input (s : State) : (s.advancePc).input = s.input := rfl
@[simp] theorem State.advancePc_inputs (s : State) : (s.advancePc).inputs = s.inputs := rfl
@[simp] theorem State.advancePc_cycle (s : State) : (s.advancePc).cycle = s.cycle := rfl

/-! ### a skip -/

@[simp] theorem State.skipIf_v (s : State) (c : Bool) : (s.skipIf c).v = s.v := by
  cases c <;> rfl
@[simp] theorem State.skipIf_i (s : State) (c : Bool) : (s.skipIf c).i = s.i := by
  cases c <;> rfl
@[simp] theorem State.skipIf_pc (s : State) (c : Bool) : (s.skipIf c).pc = (if c then s.pc + 2 else s.pc) := by
  cases c <;> rfl
@[simp] theorem State.skipIf_sp (s : State) (c : Bool) : (s.skipIf c).sp = s.sp := by
  cases c <;> rfl
@[simp] theorem State.skipIf_stack (s : State) (c : Bool) : (s.skipIf c).stack = s.stack := by
  cases c <;> rfl
@[simp] theorem State.skipIf_dt (s : State) (c : Bool) : (s.skipIf c).dt = s.dt := by
  cases c <;> rfl
@[simp] theorem State.skipIf_st (s : State) (c : Bool) : (s.skipIf c).st = s.st := by
  cases c <;> rfl
@[simp] theorem State.skipIf_tick (s : State) (c : Bool) : (s.skipIf c).tick = s.tick := by
  cases c <;> rfl
@[simp] theorem State.skipIf_mem (s : State) (c : Bool) : (s.skipIf c).mem = s.mem := by
  cases c <;> rfl
@[simp] theorem State.skipIf_cfg (s : State) (c : Bool) : (s.skipIf c).cfg = s.cfg := by
  cases c <;> rfl
@[simp] theorem State.skipIf_halt (s : State) (c : Bool) : (s.skipIf c).halt = s.halt := by
  cases c <;> rfl
@[simp] theorem State.skipIf_fb (s : State) (c : Bool) : (s.skipIf c).fb = s.fb := by
  cases c <;> rfl
@[simp] theorem State.skipIf_renders (s : State) (c : Bool) : (s.skipIf c).renders = s.renders := by
  cases c <;> rfl
@[simp] theorem State.skipIf_input (s : State) (c : Bool) : (s.skipIf c).input = s.input := by
  cases c <;> rfl
@[simp] theorem State.skipIf_inputs (s : State) (c : Bool) : (s.skipIf c).inputs = s.inputs := by
  cases c <;> rfl
@[simp] theorem State.skipIf_cycle (s : State) (c : Bool) : (s.skipIf c).cycle = s.cycle := by
  cases c <;> rfl

/-! ### a fault -/

@[simp] theorem State.raise_v (s : State) (k : FaultKind) : (s.raise k).v = s.v := rfl
@[simp] theorem State.raise_i (s : State) (k : FaultKind) : (s.raise k).i = s.i := rfl
@[simp] theorem State.raise_pc (s : State) (k : FaultKind) : (s.raise k).pc = s.pc := rfl
@[simp] theorem State.raise_sp (s : State) (k : FaultKind) : (s.raise k).sp = s.sp := rfl
@[simp] theorem State.raise_stack (s : State) (k : FaultKind) : (s.raise k).stack = s.stack := rfl
@[simp] theorem State.raise_dt (s : State) (k : FaultKind) : (s.raise k).dt = s.dt := rfl
@[simp] theorem State.raise_st (s : State) (k : FaultKind) : (s.raise k).st = s.st := rfl
@[simp] theorem State.raise_tick (s : State) (k : FaultKind) : (s.raise k).tick = s.tick := rfl
@[simp] theorem State.raise_mem (s : State) (k : FaultKind) : (s.raise k).mem = s.mem := rfl
@[simp] theorem State.raise_cfg (s : State) (k : FaultKind) : (s.raise k).cfg = s.cfg := rfl
@[simp] theorem State.raise_halt (s : State) (k : FaultKind) : (s.raise k).halt = .faulted k := rfl
@[simp] theorem State.raise_fb (s : State) (k : FaultKind) : (s.raise k).fb = s.fb := rfl
@[simp] theorem State.raise_renders (s : State) (k : FaultKind) : (s.raise k).renders = s.renders := rfl
@[simp] theorem State.raise_input (s : State) (k : FaultKind) : (s.raise k).input = s.input := rfl
@[simp] theorem State.raise_inputs (s : State) (k : FaultKind) : (s.raise k).inputs = s.inputs := rfl
@[simp] theorem State.raise_cycle (s : State) (k : FaultKind) : (s.raise k).cycle = s.cycle := rfl

/-! ### a byte of memory -/

@[simp] theorem State.poke_v (s : State) (a : Nat) (b : Byte) : (s.poke a b).v = s.v := rfl
@[simp] theorem State.poke_i (s : State) (a : Nat) (b : Byte) : (s.poke a b).i = s.i := rfl
@[simp] theorem State.poke_pc (s : State) (a : Nat) (b : Byte) : (s.poke a b).pc = s.pc := rfl
@[simp] theorem State.poke_sp (s : State) (a : Nat) (b : Byte) : (s.poke a b).sp = s.sp := rfl
@[simp] theorem State.poke_stack (s : State) (a : Nat) (b : Byte) : (s.poke a b).stack = s.stack := rfl
@[simp] theorem State.poke_dt (s : State) (a : Nat) (b : Byte) : (s.poke a b).dt = s.dt := rfl
@[simp] theorem State.poke_st (s : State) (a : Nat) (b : Byte) : (s.poke a b).st = s.st := rfl
@[simp] theorem State.poke_tick (s : State) (a : Nat) (b : Byte) : (s.poke a b).tick = s.tick := rfl
@[simp] theorem State.poke_mem (s : State) (a : Nat) (b : Byte) : (s.poke a b).mem = s.mem.write s.cfg.font a b := rfl
@[simp] theorem State.poke_cfg (s : State) (a : Nat) (b : Byte) : (s.poke a b).cfg = s.cfg := rfl
@[simp] theorem State.poke_halt (s : State) (a : Nat) (b : Byte) : (s.poke a b).halt = s.halt := rfl
@[simp] theorem State.poke_fb (s : State) (a : Nat) (b : Byte) : (s.poke a b).fb = s.fb := rfl
@[simp] theorem State.poke_renders (s : State) (a : Nat) (b : Byte) : (s.poke a b).renders = s.renders := rfl
@[simp] theorem State.poke_input (s : State) (a : Nat) (b : Byte) : (s.poke a b).input = s.input := rfl
@[simp] theorem State.poke_inputs (s : State) (a : Nat) (b : Byte) : (s.poke a b).inputs = s.inputs := rfl
@[simp] theorem State.poke_cycle (s : State) (a : Nat) (b : Byte) : (s.poke a b).cycle = s.cycle := rfl

/-! ### a pixel -/

@[simp] theorem State.setPixel_v (s : State) (px py : Nat) (b : Bool) : (s.setPixel px py b).v = s.v := rfl
@[simp] theorem State.setPixel_i (s : State) (px py : Nat) (b : Bool) : (s.setPixel px py b).i = s.i := rfl
@[simp] theorem State.setPixel_pc (s : State) (px py : Nat) (b : Bool) : (s.setPixel px py b).pc = s.pc := rfl
@[simp] theorem State.setPixel_sp (s : State) (px py : Nat) (b : Bool) : (s.setPixel px py b).sp = s.sp := rfl
@[simp] theorem State.setPixel_stack (s : State) (px py : Nat) (b : Bool) : (s.setPixel px py b).stack = s.stack := rfl
@[simp] theorem State.setPixel_dt (s : State) (px py : Nat) (b : Bool) : (s.setPixel px py b).dt = s.dt := rfl
@[simp] theorem State.setPixel_st (s : State) (px py : Nat) (b : Bool) : (s.setPixel px py b).st = s.st := rfl
@[simp] theorem State.setPixel_tick (s : State) (px py : Nat) (b : Bool) : (s.setPixel px py b).tick = s.tick := rfl
@[simp] theorem State.setPixel_mem (s : State) (px py : Nat) (b : Bool) : (s.setPixel px py b).mem = s.mem := rfl
@[simp] theorem State.setPixel_cfg (s : State) (px py : Nat) (b : Bool) : (s.setPixel px py b).cfg = s.cfg := rfl
@[simp] theorem State.setPixel_halt (s : State) (px py : Nat) (b : Bool) : (s.setPixel px py b).halt = s.halt := rfl
@[simp] theorem State.setPixel_fb (s : State) (px py : Nat) (b : Bool) : (s.setPixel px py b).fb = fbSet s.fb px py b := rfl
@[simp] theorem State.setPixel_renders (s : State) (px py : Nat) (b : Bool) : (s.setPixel px py b).renders = s.renders := rfl
@[simp] theorem State.setPixel_input (s : State) (px py : Nat) (b : Bool) : (s.setPixel px py b).input = s.input := rfl
@[simp] theorem State.setPixel_inputs (s : State) (px py : Nat) (b : Bool) : (s.setPixel px py b).inputs = s.inputs := rfl
@[simp] theorem State.setPixel_cycle (s : State) (px py : Nat) (b : Bool) : (s.setPixel px py b).cycle = s.cycle := rfl

/-! ### the whole display -/

@[simp] theorem State.clearDisplay_v (s : State) : (s.clearDisplay).v = s.v := rfl
@[simp] theorem State.clearDisplay_i (s : State) : (s.clearDisplay).i = s.i := rfl
@[simp] theorem State.clearDisplay_pc (s : State) : (s.clearDisplay).pc = s.pc := rfl
@[simp] theorem State.clearDisplay_sp (s : State) : (s.clearDisplay).sp = s.sp := rfl
@[simp] theorem State.clearDisplay_stack (s : State) : (s.clearDisplay).stack = s.stack := rfl
@[simp] theorem State.clearDisplay_dt (s : State) : (s.clearDisplay).dt = s.dt := rfl
@[simp] theorem State.clearDisplay_st (s : State) : (s.clearDisplay).st = s.st := rfl
@[simp] theorem State.clearDisplay_tick (s : State) : (s.clearDisplay).tick = s.tick := rfl
@[simp] theorem State.clearDisplay_mem (s : State) : (s.clearDisplay).mem = s.mem := rfl
@[simp] theorem State.clearDisplay_cfg (s : State) : (s.clearDisplay).cfg = s.cfg := rfl
@[simp] theorem State.clearDisplay_halt (s : State) : (s.clearDisplay).halt = s.halt := rfl
@[simp] theorem State.clearDisplay_fb (s : State) : (s.clearDisplay).fb = fbOff := rfl
@[simp] theorem State.clearDisplay_renders (s : State) : (s.clearDisplay).renders = s.renders := rfl
@[simp] theorem State.clearDisplay_input (s : State) : (s.clearDisplay).input = s.input := rfl
@[simp] theorem State.clearDisplay_inputs (s : State) : (s.clearDisplay).inputs = s.inputs := rfl
@[simp] theorem State.clearDisplay_cycle (s : State) : (s.clearDisplay).cycle = s.cycle := rfl

/-! ### a render request -/

@[simp] theorem State.requestRender_v (s : State) : (s.requestRender).v = s.v := rfl
@[simp] theorem State.requestRender_i (s : State) : (s.requestRender).i = s.i := rfl
@[simp] theorem State.requestRender_pc (s : State) : (s.requestRender).pc = s.pc := rfl
@[simp] theorem State.requestRender_sp (s : State) : (s.requestRender).sp = s.sp := rfl
@[simp] theorem State.requestRender_stack (s : State) : (s.requestRender).stack = s.stack := rfl
@[simp] theorem State.requestRender_dt (s : State) : (s.requestRender).dt = s.dt := rfl
@[simp] theorem State.requestRender_st (s : State) : (s.requestRender).st = s.st := rfl
@[simp] theorem State.requestRender_tick (s : State) : (s.requestRender).tick = s.tick := rfl
@[simp] theorem State.requestRender_mem (s : State) : (s.requestRender).mem = s.mem := rfl
@[simp] theorem State.requestRender_cfg (s : State) : (s.requestRender).cfg = s.cfg := rfl
@[simp] theorem State.requestRender_halt (s : State) : (s.requestRender).halt = s.halt := rfl
@[simp] theorem State.requestRender_fb (s : State) : (s.requestRender).fb = s.fb := rfl
@[simp] theorem State.requestRender_renders (s : State) : (s.requestRender).renders = s.renders + 1 := rfl
@[simp] theorem State.requestRender_input (s : State) : (s.requestRender).input = s.input := rfl
@[simp] theorem State.requestRender_inputs (s : State) : (s.requestRender).inputs = s.inputs := rfl
@[simp] theorem State.requestRender_cycle (s : State) : (s.requestRender).cycle = s.cycle := rfl

/-! ### the timer tick -/

@[simp] theorem State.timerTick_v (s : State) : (s.timerTick).v = s.v := by
  unfold State.timerTick; split <;> rfl
@[simp] theorem State.timerTick_i (s : State) : (s.timerTick).i = s.i := by
  unfold State.timerTick; split <;> rfl
@[simp] theorem State.timerTick_pc (s : State) : (s.timerTick).pc = s.pc := by
  unfold State.timerTick; split <;> rfl
@[simp] theorem State.timerTick_sp (s : State) : (s.timerTick).sp = s.sp := by
  unfold State.timerTick; split <;> rfl
@[simp] theorem State.timerTick_stack (s : State) : (s.timerTick).stack = s.stack := by
  unfold State.timerTick; split <;> rfl
@[simp] theorem State.timerTick_mem (s : State) : (s.timerTick).mem = s.mem := by
  unfold State.timerTick; split <;> rfl
@[simp] theorem State.timerTick_cfg (s : State) : (s.timerTick).cfg = s.cfg := by
  unfold State.timerTick; split <;> rfl
@[simp] theorem State.timerTick_halt (s : State) : (s.timerTick).halt = s.halt := by
  unfold State.timerTick; split <;> rfl
@[simp] theorem State.timerTick_fb (s : State) : (s.timerTick).fb = s.fb := by
  unfold State.timerTick; split <;> rfl
@[simp] theorem State.timerTick_renders (s : State) : (s.timerTick).renders = s.renders := by
  unfold State.timerTick; split <;> rfl
@[simp] theorem State.timerTick_input (s : State) : (s.timerTick).input = s.input := by
  unfold State.timerTick; split <;> rfl
@[simp] theorem State.timerTick_inputs (s : State) : (s.timerTick).inputs = s.inputs := by
  unfold State.timerTick; split <;> rfl
@[simp] theorem State.timerTick_cycle (s : State) : (s.timerTick).cycle = s.cycle := by
  unfold State.timerTick; split <;> rfl

/-! ### the input sample -/

@[simp] theorem State.sampleInput_v (s : State) : (s.sampleInput).v = s.v := by
  unfold State.sampleInput; split <;> rfl
@[simp] theorem State.sampleInput_i (s : State) : (s.sampleInput).i = s.i := by
  unfold State.sampleInput; split <;> rfl
@[simp] theorem State.sampleInput_pc (s : State) : (s.sampleInput).pc = s.pc := by
  unfold State.sampleInput; split <;> rfl
@[simp] theorem State.sampleInput_sp (s : State) : (s.sampleInput).sp = s.sp := by
  unfold State.sampleInput; split <;> rfl
@[simp] theorem State.sampleInput_stack (s : State) : (s.sampleInput).stack = s.stack := by
  unfold State.sampleInput; split <;> rfl
@[simp] theorem State.sampleInput_dt (s : State) : (s.sampleInput).dt = s.dt := by
  unfold State.sampleInput; split <;> rfl
@[simp] theorem State.sampleInput_st (s : State) : (s.sampleInput).st = s.st := by
  unfold State.sampleInput; split <;> rfl
@[simp] theorem State.sampleInput_tick (s : State) : (s.sampleInput).tick = s.tick := by
  unfold State.sampleInput; split <;> rfl
@[simp] theorem State.sampleInput_mem (s : State) : (s.sampleInput).mem = s.mem := by
  unfold State.sampleInput; split <;> rfl
@[simp] theorem State.sampleInput_cfg (s : State) : (s.sampleInput).cfg = s.cfg := by
  unfold State.sampleInput; split <;> rfl
@[simp] theorem State.sampleInput_halt (s : State) : (s.sampleInput).halt = s.halt := by
  unfold State.sampleInput; split <;> rfl
@[simp] theorem State.sampleInput_fb (s : State) : (s.sampleInput).fb = s.fb := by
  unfold State.sampleInput; split <;> rfl
@[simp] theorem State.sampleInput_renders (s : State) : (s.sampleInput).renders = s.renders := by
  unfold State.sampleInput; split <;> rfl
@[simp] theorem State.sampleInput_cycle (s : State) : (s.sampleInput).cycle = s.cycle + 1 := by
  unfold State.sampleInput; split <;> rfl

/-! ### the start of a cycle -/

@[simp] theorem State.beginCycle_v (s : State) : (s.beginCycle).v = s.v := by
  simp [State.beginCycle]
@[simp] theorem State.beginCycle_i (s : State) : (s.beginCycle).i = s.i := by
  simp [State.beginCycle]
@[simp] theorem State.beginCycle_pc (s : State) : (s.beginCycle).pc = s.pc := by
  simp [State.beginCycle]
@[simp] theorem State.beginCycle_sp (s : State) : (s.beginCycle).sp = s.sp := by
  simp [State.beginCycle]
@[simp] theorem State.beginCycle_stack (s : State) : (s.beginCycle).stack = s.stack := by
  simp [State.beginCycle]
@[simp] theorem State.beginCycle_dt (s : State) : (s.beginCycle).dt = s.timerTick.dt := by
  simp [State.beginCycle]
@[simp] theorem State.beginCycle_st (s : State) : (s.beginCycle).st = s.timerTick.st := by
  simp [State.beginCycle]
@[simp] theorem State.beginCycle_tick (s : State) : (s.beginCycle).tick = s.timerTick.tick := by
  simp [State.beginCycle]
@[simp] theorem State.beginCycle_mem (s : State) : (s.beginCycle).mem = s.mem := by
  simp [State.beginCycle]
@[simp] theorem State.beginCycle_cfg (s : State) : (s.beginCycle).cfg = s.cfg := by
  simp [State.beginCycle]
@[simp] theorem State.beginCycle_halt (s : State) : (s.beginCycle).halt = s.halt := by
  simp [State.beginCycle]
@[simp] theorem State.beginCycle_fb (s : State) : (s.beginCycle).fb = s.fb := by
  simp [State.beginCycle]
@[simp] theorem State.beginCycle_renders (s : State) : (s.beginCycle).renders = s.renders := by
  simp [State.beginCycle]
@[simp] theorem State.beginCycle_cycle (s : State) : (s.beginCycle).cycle = s.cycle + 1 := by
  simp [State.beginCycle]

/-! ### a flag and a result -/

@[simp] theorem State.writeFlagThen_i (s : State) (x : RegIdx) (f b : Byte) : (s.writeFlagThen x f b).i = s.i := rfl
@[simp] theorem State.writeFlagThen_pc (s : State) (x : RegIdx) (f b : Byte) : (s.writeFlagThen x f b).pc = s.pc := rfl
@[simp] theorem State.writeFlagThen_sp (s : State) (x : RegIdx) (f b : Byte) : (s.writeFlagThen x f b).sp = s.sp := rfl
@[simp] theorem State.writeFlagThen_stack (s : State) (x : RegIdx) (f b : Byte) : (s.writeFlagThen x f b).stack = s.stack := rfl
@[simp] theorem State.writeFlagThen_dt (s : State) (x : RegIdx) (f b : Byte) : (s.writeFlagThen x f b).dt = s.dt := rfl
@[simp] theorem State.writeFlagThen_st (s : State) (x : RegIdx) (f b : Byte) : (s.writeFlagThen x f b).st = s.st := rfl
@[simp] theorem State.writeFlagThen_tick (s : State) (x : RegIdx) (f b : Byte) : (s.writeFlagThen x f b).tick = s.tick := rfl
@[simp] theorem State.writeFlagThen_mem (s : State) (x : RegIdx) (f b : Byte) : (s.writeFlagThen x f b).mem = s.mem := rfl
@[simp] theorem State.writeFlagThen_cfg (s : State) (x : RegIdx) (f b : Byte) : (s.writeFlagThen x f b).cfg = s.cfg := rfl
@[simp] theorem State.writeFlagThen_halt (s : State) (x : RegIdx) (f b : Byte) : (s.writeFlagThen x f b).halt = s.halt := rfl
@[simp] theorem State.writeFlagThen_fb (s : State) (x : RegIdx) (f b : Byte) : (s.writeFlagThen x f b).fb = s.fb := rfl
@[simp] theorem State.writeFlagThen_renders (s : State) (x : RegIdx) (f b : Byte) : (s.writeFlagThen x f b).renders = s.renders := rfl
@[simp] theorem State.writeFlagThen_input (s : State) (x : RegIdx) (f b : Byte) : (s.writeFlagThen x f b).input = s.input := rfl
@[simp] theorem State.writeFlagThen_inputs (s : State) (x : RegIdx) (f b : Byte) : (s.writeFlagThen x f b).inputs = s.inputs := rfl
@[simp] theorem State.writeFlagThen_cycle (s : State) (x : RegIdx) (f b : Byte) : (s.writeFlagThen x f b).cycle = s.cycle := rfl

/-! ### a logic result -/

@[simp] theorem State.writeLogic_i (s : State) (x : RegIdx) (b : Byte) : (s.writeLogic x b).i = s.i := by
  unfold State.writeLogic; split <;> rfl
@[simp] theorem State.writeLogic_pc (s : State) (x : RegIdx) (b : Byte) : (s.writeLogic x b).pc = s.pc := by
  unfold State.writeLogic; split <;> rfl
@[simp] theorem State.writeLogic_sp (s : State) (x : RegIdx) (b : Byte) : (s.writeLogic x b).sp = s.sp := by
  unfold State.writeLogic; split <;> rfl
@[simp] theorem State.writeLogic_stack (s : State) (x : RegIdx) (b : Byte) : (s.writeLogic x b).stack = s.stack := by
  unfold State.writeLogic; split <;> rfl
@[simp] theorem State.writeLogic_dt (s : State) (x : RegIdx) (b : Byte) : (s.writeLogic x b).dt = s.dt := by
  unfold State.writeLogic; split <;> rfl
@[simp] theorem State.writeLogic_st (s : State) (x : RegIdx) (b : Byte) : (s.writeLogic x b).st = s.st := by
  unfold State.writeLogic; split <;> rfl
@[simp] theorem State.writeLogic_tick (s : State) (x : RegIdx) (b : Byte) : (s.writeLogic x b).tick = s.tick := by
  unfold State.writeLogic; split <;> rfl
@[simp] theorem State.writeLogic_mem (s : State) (x : RegIdx) (b : Byte) : (s.writeLogic x b).mem = s.mem := by
  unfold State.writeLogic; split <;> rfl
@[simp] theorem State.writeLogic_cfg (s : State) (x : RegIdx) (b : Byte) : (s.writeLogic x b).cfg = s.cfg := by
  unfold State.writeLogic; split <;> rfl
@[simp] theorem State.writeLogic_halt (s : State) (x : RegIdx) (b : Byte) : (s.writeLogic x b).halt = s.halt := by
  unfold State.writeLogic; split <;> rfl
@[simp] theorem State.writeLogic_fb (s : State) (x : RegIdx) (b : Byte) : (s.writeLogic x b).fb = s.fb := by
  unfold State.writeLogic; split <;> rfl
@[simp] theorem State.writeLogic_renders (s : State) (x : RegIdx) (b : Byte) : (s.writeLogic x b).renders = s.renders := by
  unfold State.writeLogic; split <;> rfl
@[simp] theorem State.writeLogic_input (s : State) (x : RegIdx) (b : Byte) : (s.writeLogic x b).input = s.input := by
  unfold State.writeLogic; split <;> rfl
@[simp] theorem State.writeLogic_inputs (s : State) (x : RegIdx) (b : Byte) : (s.writeLogic x b).inputs = s.inputs := by
  unfold State.writeLogic; split <;> rfl
@[simp] theorem State.writeLogic_cycle (s : State) (x : RegIdx) (b : Byte) : (s.writeLogic x b).cycle = s.cycle := by
  unfold State.writeLogic; split <;> rfl

/-! ### the index after a transfer -/

@[simp] theorem State.bumpIndex_v (s : State) (x : RegIdx) : (s.bumpIndex x).v = s.v := by
  unfold State.bumpIndex; split <;> rfl
@[simp] theorem State.bumpIndex_i (s : State) (x : RegIdx) : (s.bumpIndex x).i = (if s.cfg.qLoadStore then s.indexAfter x else s.i) := by
  unfold State.bumpIndex; split <;> rfl
@[simp] theorem State.bumpIndex_pc (s : State) (x : RegIdx) : (s.bumpIndex x).pc = s.pc := by
  unfold State.bumpIndex; split <;> rfl
@[simp] theorem State.bumpIndex_sp (s : State) (x : RegIdx) : (s.bumpIndex x).sp = s.sp := by
  unfold State.bumpIndex; split <;> rfl
@[simp] theorem State.bumpIndex_stack (s : State) (x : RegIdx) : (s.bumpIndex x).stack = s.stack := by
  unfold State.bumpIndex; split <;> rfl
@[simp] theorem State.bumpIndex_dt (s : State) (x : RegIdx) : (s.bumpIndex x).dt = s.dt := by
  unfold State.bumpIndex; split <;> rfl
@[simp] theorem State.bumpIndex_st (s : State) (x : RegIdx) : (s.bumpIndex x).st = s.st := by
  unfold State.bumpIndex; split <;> rfl
@[simp] theorem State.bumpIndex_tick (s : State) (x : RegIdx) : (s.bumpIndex x).tick = s.tick := by
  unfold State.bumpIndex; split <;> rfl
@[simp] theorem State.bumpIndex_mem (s : State) (x : RegIdx) : (s.bumpIndex x).mem = s.mem := by
  unfold State.bumpIndex; split <;> rfl
@[simp] theorem State.bumpIndex_cfg (s : State) (x : RegIdx) : (s.bumpIndex x).cfg = s.cfg := by
  unfold State.bumpIndex; split <;> rfl
@[simp] theorem State.bumpIndex_halt (s : State) (x : RegIdx) : (s.bumpIndex x).halt = s.halt := by
  unfold State.bumpIndex; split <;> rfl
@[simp] theorem State.bumpIndex_fb (s : State) (x : RegIdx) : (s.bumpIndex x).fb = s.fb := by
  unfold State.bumpIndex; split <;> rfl
@[simp] theorem State.bumpIndex_renders (s : State) (x : RegIdx) : (s.bumpIndex x).renders = s.renders := by
  unfold State.bumpIndex; split <;> rfl
@[simp] theorem State.bumpIndex_input (s : State) (x : RegIdx) : (s.bumpIndex x).input = s.input := by
  unfold State.bumpIndex; split <;> rfl
@[simp] theorem State.bumpIndex_inputs (s : State) (x : RegIdx) : (s.bumpIndex x).inputs = s.inputs := by
  unfold State.bumpIndex; split <;> rfl
@[simp] theorem State.bumpIndex_cycle (s : State) (x : RegIdx) : (s.bumpIndex x).cycle = s.cycle := by
  unfold State.bumpIndex; split <;> rfl

/-! ### Reads of one register, one byte, one pixel through an update that leaves them alone -/

@[simp] theorem State.peek_setV (s : State) (x : RegIdx) (b : Byte) (m : Nat) : (s.setV x b).peek m = s.peek m := by
  simp [State.peek]
@[simp] theorem State.pixel_setV (s : State) (x : RegIdx) (b : Byte) (qx qy : Nat) : (s.setV x b).pixel qx qy = s.pixel qx qy := by
  simp [State.pixel]
@[simp] theorem State.getV_setI (s : State) (a : Word) (r : RegIdx) : (s.setI a).getV r = s.getV r := by
  simp [State.getV]
@[simp] theorem State.peek_setI (s : State) (a : Word) (m : Nat) : (s.setI a).peek m = s.peek m := by
  simp [State.peek]
@[simp] theorem State.pixel_setI (s : State) (a : Word) (qx qy : Nat) : (s.setI a).pixel qx qy = s.pixel qx qy := by
  simp [State.pixel]
@[simp] theorem State.getV_setPc (s : State) (a : Word) (r : RegIdx) : (s.setPc a).getV r = s.getV r := by
  simp [State.getV]
@[simp] theorem State.peek_setPc (s : State) (a : Word) (m : Nat) : (s.setPc a).peek m = s.peek m := by
  simp [State.peek]
@[simp] theorem State.pixel_setPc (s : State) (a : Word) (qx qy : Nat) : (s.setPc a).pixel qx qy = s.pixel qx qy := by
  simp [State.pixel]
@[simp] theorem State.getV_setDt (s : State) (b : Byte) (r : RegIdx) : (s.setDt b).getV r = s.getV r := by
  simp [State.getV]
@[simp] theorem State.peek_setDt (s : State) (b : Byte) (m : Nat) : (s.setDt b).peek m = s.peek m := by
  simp [State.peek]
@[simp] theorem State.pixel_setDt (s : State) (b : Byte) (qx qy : Nat) : (s.setDt b).pixel qx qy = s.pixel qx qy := by
  simp [State.pixel]
@[simp] theorem State.getV_setSt (s : State) (b : Byte) (r : RegIdx) : (s.setSt b).getV r = s.getV r := by
  simp [State.getV]
@[simp] theorem State.peek_setSt (s : State) (b : Byte) (m : Nat) : (s.setSt b).peek m = s.peek m := by
  simp [State.peek]
@[simp] theorem State.pixel_setSt (s : State) (b : Byte) (qx qy : Nat) : (s.setSt b).pixel qx qy = s.pixel qx qy := by
  simp [State.pixel]
@[simp] theorem State.getV_advancePc (s : State) (r : RegIdx) : (s.advancePc).getV r = s.getV r := by
  simp [State.getV]
@[simp] theorem State.peek_advancePc (s : State) (m : Nat) : (s.advancePc).peek m = s.peek m := by
  simp [State.peek]
@[simp] theorem State.pixel_advancePc (s : State) (qx qy : Nat) : (s.advancePc).pixel qx qy = s.pixel qx qy := by
  simp [State.pixel]
@[simp] theorem State.getV_skipIf (s : State) (c : Bool) (r : RegIdx) : (s.skipIf c).getV r = s.getV r := by
  simp [State.getV]
@[simp] theorem State.peek_skipIf (s : State) (c : Bool) (m : Nat) : (s.skipIf c).peek m = s.peek m := by
  simp [State.peek]
@[simp] theorem State.pixel_skipIf (s : State) (c : Bool) (qx qy : Nat) : (s.skipIf c).pixel qx qy = s.pixel qx qy := by
  simp [State.pixel]
@[simp] theorem State.getV_raise (s : State) (k : FaultKind) (r : RegIdx) : (s.raise k).getV r = s.getV r := by
  simp [State.getV]
@[simp] theorem State.peek_raise (s : State) (k : FaultKind) (m : Nat) : (s.raise k).peek m = s.peek m := by
  simp [State.peek]
@[simp] theorem State.pixel_raise (s : State) (k : FaultKind) (qx qy : Nat) : (s.raise k).pixel qx qy = s.pixel qx qy := by
  simp [State.pixel]
@[simp] theorem State.getV_poke (s : State) (a : Nat) (b : Byte) (r : RegIdx) : (s.poke a b).getV r = s.getV r := by
  simp [State.getV]
@[simp] theorem State.pixel_poke (s : State) (a : Nat) (b : Byte) (qx qy : Nat) : (s.poke a b).pixel qx qy = s.pixel qx qy := by
  simp [State.pixel]
@[simp] theorem State.getV_setPixel (s : State) (px py : Nat) (b : Bool) (r : RegIdx) : (s.setPixel px py b).getV r = s.getV r := by
  simp [State.getV]
@[simp] theorem State.peek_setPixel (s : State) (px py : Nat) (b : Bool) (m : Nat) : (s.setPixel px py b).peek m = s.peek m := by
  simp [State.peek]
@[simp] theorem State.getV_clearDisplay (s : State) (r : RegIdx) : (s.clearDisplay).getV r = s.getV r := by
  simp [State.getV]
@[simp] theorem State.peek_clearDisplay (s : State) (m : Nat) : (s.clearDisplay).peek m = s.peek m := by
  simp [State.peek]
@[simp] theorem State.getV_requestRender (s : State) (r : RegIdx) : (s.requestRender).getV r = s.getV r := by
  simp [State.getV]
@[simp] theorem State.peek_requestRender (s : State) (m : Nat) : (s.requestRender).peek m = s.peek m := by
  simp [State.peek]
@[simp] theorem State.pixel_requestRender (s : State) (qx qy : Nat) : (s.requestRender).pixel qx qy = s.pixel qx qy := by
  simp [State.pixel]
@[simp] theorem State.getV_timerTick (s : State) (r : RegIdx) : (s.timerTick).getV r = s.getV r := by
  simp [State.getV]
@[simp] theorem State.peek_timerTick (s : State) (m : Nat) : (s.timerTick).peek m = s.peek m := by
  simp [State.peek]
@[simp] theorem State.pixel_timerTick (s : State) (qx qy : Nat) : (s.timerTick).pixel qx qy = s.pixel qx qy := by
  simp [State.pixel]
@[simp] theorem State.getV_sampleInput (s : State) (r : RegIdx) : (s.sampleInput).getV r = s.getV r := by
  simp [State.getV]
@[simp] theorem State.peek_sampleInput (s : State) (m : Nat) : (s.sampleInput).peek m = s.peek m := by
  simp [State.peek]
@[simp] theorem State.pixel_sampleInput (s : State) (qx qy : Nat) : (s.sampleInput).pixel qx qy = s.pixel qx qy := by
  simp [State.pixel]
@[simp] theorem State.getV_beginCycle (s : State) (r : RegIdx) : (s.beginCycle).getV r = s.getV r := by
  simp [State.getV]
@[simp] theorem State.peek_beginCycle (s : State) (m : Nat) : (s.beginCycle).peek m = s.peek m := by
  simp [State.peek]
@[simp] theorem State.pixel_beginCycle (s : State) (qx qy : Nat) : (s.beginCycle).pixel qx qy = s.pixel qx qy := by
  simp [State.pixel]
@[simp] theorem State.peek_writeFlagThen (s : State) (x : RegIdx) (f b : Byte) (m : Nat) : (s.writeFlagThen x f b).peek m = s.peek m := by
  simp [State.peek]
@[simp] theorem State.pixel_writeFlagThen (s : State) (x : RegIdx) (f b : Byte) (qx qy : Nat) : (s.writeFlagThen x f b).pixel qx qy = s.pixel qx qy := by
  simp [State.pixel]
@[simp] theorem State.peek_writeLogic (s : State) (x : RegIdx) (b : Byte) (m : Nat) : (s.writeLogic x b).peek m = s.peek m := by
  simp [State.peek]
@[simp] theorem State.pixel_writeLogic (s : State) (x : RegIdx) (b : Byte) (qx qy : Nat) : (s.writeLogic x b).pixel qx qy = s.pixel qx qy := by
  simp [State.pixel]
@[simp] theorem State.getV_bumpIndex (s : State) (x : RegIdx) (r : RegIdx) : (s.bumpIndex x).getV r = s.getV r := by
  simp [State.getV]
@[simp] theorem State.peek_bumpIndex (s : State) (x : RegIdx) (m : Nat) : (s.bumpIndex x).peek m = s.peek m := by
  simp [State.peek]
@[simp] theorem State.pixel_bumpIndex (s : State) (x : RegIdx) (qx qy : Nat) : (s.bumpIndex x).pixel qx qy = s.pixel qx qy := by
  simp [State.pixel]

end Sys2Proof.Machine
end

