-- ==== Sys2Proof/Laws/Ops.lean ====
section
/-! SUPPORT. One lemma per shared operation that says once what it does. -/

namespace Sys2Proof.Machine

/-! ### Registers -/

theorem State.getV_setV (s : State) (x r : RegIdx) (b : Byte) :
    (s.setV x b).getV r = if r = x then b else s.getV r := by
  simp only [State.getV, State.setV_v, Vector.get_eq_getElem, Vector.getElem_set, Fin.ext_iff, eq_comm]

@[simp] theorem State.getV_setV_same (s : State) (x : RegIdx) (b : Byte) : (s.setV x b).getV x = b := by
  simp [State.getV_setV]

theorem State.getV_setV_ne {s : State} {x r : RegIdx} {b : Byte} (h : r ≠ x) : (s.setV x b).getV r = s.getV r := by
  simp [State.getV_setV, h]

theorem State.getV_writeFlagThen (s : State) (x r : RegIdx) (f b : Byte) :
    (s.writeFlagThen x f b).getV r = if r = x then b else if r = vf then f else s.getV r := by
  simp [State.writeFlagThen, State.getV_setV]

theorem State.getV_writeLogic (s : State) (x r : RegIdx) (b : Byte) :
    (s.writeLogic x b).getV r = if s.cfg.qLogic = true ∧ r = vf then 0 else if r = x then b else s.getV r := by
  unfold State.writeLogic
  cases s.cfg.qLogic <;> simp [State.getV_setV]

/-! ### Memory -/

theorem State.peek_poke (s : State) (a c : Nat) (b : Byte) :
    (s.poke a b).peek c = if c = a then b else s.peek c := by
  simp [State.peek, Memory.read_write]

theorem State.memRead_ok {s : State} {a : Nat} (h : a ≤ 0xFFF) : s.memRead a = .ok (s.peek a) := by
  simp [State.memRead, h]

theorem State.memRead_error {s : State} {a : Nat} (h : 0xFFF < a) :
    s.memRead a = .error (.addressOutOfRange a) := by
  simp [State.memRead, h]

theorem State.memWrite_ok {s : State} {a : Nat} (b : Byte) (h : a ≤ 0xFFF) : s.memWrite a b = .ok (s.poke a b) := by
  simp [State.memWrite, h]

theorem State.memWrite_error {s : State} {a : Nat} (b : Byte) (h : 0xFFF < a) :
    s.memWrite a b = .error (.addressOutOfRange a) := by
  simp [State.memWrite, h]

/-- Bytes stored from `a` up inside the address space: each lands at its place, nothing else changes. -/
theorem State.storeBytes_ok (bs : List Byte) (a : Nat) (s : State) (h : a + bs.length ≤ 0x1000) :
    ∃ t, State.storeBytes bs a s = .ok t ∧ t = { s with mem := t.mem } ∧
      ∀ c, t.peek c = if a ≤ c ∧ c < a + bs.length then bs.getD (c - a) 0 else s.peek c := by
  induction bs generalizing a s with
  | nil => exact ⟨s, rfl, rfl, fun c => by simp⟩
  | cons b bs ih =>
    simp only [List.length_cons] at h
    obtain ⟨t, h1, h2, h3⟩ := ih (a + 1) (s.poke a b) (by omega)
    refine ⟨t, ?_, ?_, fun c => ?_⟩
    · simp only [State.storeBytes, State.memWrite_ok b (show a ≤ 0xFFF by omega), h1]
    · rw [h2]; rfl
    · rw [h3 c, State.peek_poke]
      simp only [List.length_cons]
      rcases Nat.lt_trichotomy c a with hc | hc | hc
      · simp [show ¬ a + 1 ≤ c by omega, show ¬ a ≤ c by omega, show c ≠ a by omega]
      · subst hc; simp
      · obtain ⟨d, rfl⟩ : ∃ d, c = a + 1 + d := ⟨c - (a + 1), by omega⟩
        simp only [show a + 1 + d ≠ a by omega, if_false, show a + 1 + d - (a + 1) = d by omega,
          show a + 1 + d - a = d + 1 by omega, List.getD_cons_succ]
        congr 1
        simp only [eq_iff_iff]; omega

/-- Bytes stored past `0xFFF`: the fault names the lowest failing address, and the bytes below it are stored (R61). -/
theorem State.storeBytes_fault (bs : List Byte) (a : Nat) (s : State) (h : 0x1000 < a + bs.length) (h0 : bs ≠ []) :
    ∃ t, State.storeBytes bs a s = .error t ∧
      t = { s with mem := t.mem, halt := .faulted (.addressOutOfRange (max a 0x1000)) } ∧
      ∀ c, t.peek c = if a ≤ c ∧ c ≤ 0xFFF then bs.getD (c - a) 0 else s.peek c := by
  induction bs generalizing a s with
  | nil => exact absurd rfl h0
  | cons b bs ih =>
    simp only [List.length_cons] at h
    by_cases ha : a ≤ 0xFFF
    · have hbs : bs ≠ [] := by rintro rfl; simp at h; omega
      obtain ⟨t, h1, h2, h3⟩ := ih (a + 1) (s.poke a b) (by omega) hbs
      refine ⟨t, ?_, ?_, fun c => ?_⟩
      · simp only [State.storeBytes, State.memWrite_ok b ha, h1]
      · rw [h2, show max (a + 1) 0x1000 = max a 0x1000 by omega]; rfl
      · rw [h3 c, State.peek_poke]
        rcases Nat.lt_trichotomy c a with hc | hc | hc
        · simp [show ¬ a + 1 ≤ c by omega, show ¬ a ≤ c by omega, show c ≠ a by omega]
        · subst hc; simp [ha]
        · obtain ⟨d, rfl⟩ : ∃ d, c = a + 1 + d := ⟨c - (a + 1), by omega⟩
          simp only [show a + 1 + d ≠ a by omega, if_false, show a + 1 + d - (a + 1) = d by omega,
            show a + 1 + d - a = d + 1 by omega, List.getD_cons_succ]
          congr 1
          simp only [eq_iff_iff]; omega
    · refine ⟨s.raise (.addressOutOfRange a), ?_, ?_, fun c => ?_⟩
      · simp only [State.storeBytes, State.memWrite_error b (show 0xFFF < a by omega)]
      · rw [show max a 0x1000 = a by omega]; rfl
      · rw [if_neg (by omega), State.peek_raise]

/-- Whether or not the store ends early, it changes memory and, by the fault, `HALT` only. -/
theorem State.storeBytes_frame (bs : List Byte) (a : Nat) (s : State) :
    (∃ t, State.storeBytes bs a s = .ok t ∧ t = { s with mem := t.mem }) ∨
    (∃ t k, State.storeBytes bs a s = .error t ∧ t = { s with mem := t.mem, halt := .faulted (.addressOutOfRange k) }) := by
  by_cases h : a + bs.length ≤ 0x1000
  · obtain ⟨t, h1, h2, -⟩ := State.storeBytes_ok bs a s h; exact .inl ⟨t, h1, h2⟩
  · rcases eq_or_ne bs [] with rfl | hb
    · exact .inl ⟨s, rfl, rfl⟩
    · obtain ⟨t, h1, h2, -⟩ := State.storeBytes_fault bs a s (by omega) hb
      exact .inr ⟨t, _, h1, h2⟩

/-- A poke inside the address space keeps memory canonical. -/
theorem State.poke_wf {s : State} {a : Nat} (b : Byte) (ha : a ≤ 0xFFF) (h : Memory.wf s.cfg.font s.mem) :
    Memory.wf (s.poke a b).cfg.font (s.poke a b).mem := Memory.wf_write b ha h

/-- Memory at reset is canonical: nothing is listed. -/
theorem State.reset_memory_wf : Memory.wf State.reset.cfg.font State.reset.mem := Memory.wf_nil _

/-- Stores keep memory canonical. -/
theorem State.storeBytes_wf (bs : List Byte) (a : Nat) (s : State) (h : Memory.wf s.cfg.font s.mem) :
    match State.storeBytes bs a s with
    | .ok t => Memory.wf t.cfg.font t.mem
    | .error t => Memory.wf t.cfg.font t.mem := by
  induction bs generalizing a s with
  | nil => exact h
  | cons b bs ih =>
    by_cases ha : a ≤ 0xFFF
    · simp only [State.storeBytes, State.memWrite_ok b ha]
      exact ih (a + 1) (s.poke a b) (Memory.wf_write b ha h)
    · simp only [State.storeBytes, State.memWrite_error b (show 0xFFF < a by omega)]
      exact h

/-- Registers loaded from inside the address space: the j-th of them gets byte j, nothing else changes. -/
theorem State.loadRegs_ok (rs : List RegIdx) (a : Nat) (s : State) (hn : rs.Nodup) (h : a + rs.length ≤ 0x1000) :
    ∃ t, State.loadRegs rs a s = .ok t ∧ t = { s with v := t.v } ∧
      ∀ r, t.getV r = if r ∈ rs then s.peek (a + rs.idxOf r) else s.getV r := by
  induction rs generalizing a s with
  | nil => exact ⟨s, rfl, rfl, fun r => by simp⟩
  | cons q rs ih =>
    simp only [List.length_cons] at h
    rw [List.nodup_cons] at hn
    obtain ⟨t, h1, h2, h3⟩ := ih (a + 1) (s.setV q (s.peek a)) hn.2 (by omega)
    refine ⟨t, ?_, ?_, fun r => ?_⟩
    · simp only [State.loadRegs, State.memRead_ok (show a ≤ 0xFFF by omega), h1]
    · rw [h2]; rfl
    · rw [h3 r, State.getV_setV]
      rcases eq_or_ne r q with rfl | hq
      · simp [hn.1]
      · simp only [State.peek_setV, List.mem_cons, hq, false_or, if_false, List.idxOf_cons_ne _ (Ne.symm hq)]
        split_ifs
        · congr 1; omega
        · rfl

/-- Registers loaded past `0xFFF`: the fault names the lowest failing address, and the registers below it are loaded
(R185). -/
theorem State.loadRegs_fault (rs : List RegIdx) (a : Nat) (s : State) (hn : rs.Nodup) (h : 0x1000 < a + rs.length)
    (h0 : rs ≠ []) :
    ∃ t, State.loadRegs rs a s = .error t ∧
      t = { s with v := t.v, halt := .faulted (.addressOutOfRange (max a 0x1000)) } ∧
      ∀ r, t.getV r = if r ∈ rs ∧ a + rs.idxOf r ≤ 0xFFF then s.peek (a + rs.idxOf r) else s.getV r := by
  induction rs generalizing a s with
  | nil => exact absurd rfl h0
  | cons q rs ih =>
    simp only [List.length_cons] at h
    rw [List.nodup_cons] at hn
    by_cases ha : a ≤ 0xFFF
    · have hrs : rs ≠ [] := by rintro rfl; simp at h; omega
      obtain ⟨t, h1, h2, h3⟩ := ih (a + 1) (s.setV q (s.peek a)) hn.2 (by omega) hrs
      refine ⟨t, ?_, ?_, fun r => ?_⟩
      · simp only [State.loadRegs, State.memRead_ok ha, h1]
      · rw [h2, show max (a + 1) 0x1000 = max a 0x1000 by omega]; rfl
      · rw [h3 r, State.getV_setV]
        rcases eq_or_ne r q with rfl | hq
        · simp [hn.1, ha]
        · simp only [State.peek_setV, List.mem_cons, hq, false_or, if_false, List.idxOf_cons_ne _ (Ne.symm hq),
            show a + 1 + rs.idxOf r = a + (rs.idxOf r + 1) by omega]
    · refine ⟨s.raise (.addressOutOfRange a), ?_, ?_, fun r => ?_⟩
      · simp only [State.loadRegs, State.memRead_error (show 0xFFF < a by omega)]
      · rw [show max a 0x1000 = a by omega]; rfl
      · rw [if_neg (by omega), State.getV_raise]

/-- Whether or not the load ends early, it changes V registers and, by the fault, `HALT` only. -/
theorem State.loadRegs_frame (rs : List RegIdx) (a : Nat) (s : State) :
    (∃ t, State.loadRegs rs a s = .ok t ∧ t = { s with v := t.v }) ∨
    (∃ t k, State.loadRegs rs a s = .error t ∧ t = { s with v := t.v, halt := .faulted (.addressOutOfRange k) }) := by
  induction rs generalizing a s with
  | nil => exact .inl ⟨s, rfl, rfl⟩
  | cons q rs ih =>
    by_cases ha : a ≤ 0xFFF
    · simp only [State.loadRegs, State.memRead_ok ha]
      rcases ih (a + 1) (s.setV q (s.peek a)) with ⟨t, h1, h2⟩ | ⟨t, k, h1, h2⟩
      · exact .inl ⟨t, h1, by rw [h2]; rfl⟩
      · exact .inr ⟨t, k, h1, by rw [h2]; rfl⟩
    · simp only [State.loadRegs, State.memRead_error (show 0xFFF < a by omega)]
      exact .inr ⟨_, a, rfl, rfl⟩

theorem regsUpTo_length (x : RegIdx) : (regsUpTo x).length = x.val + 1 := by
  revert x; decide

theorem regsUpTo_nodup (x : RegIdx) : (regsUpTo x).Nodup := (List.nodup_finRange 16).sublist (List.take_sublist _ _)

theorem mem_regsUpTo {x r : RegIdx} : r ∈ regsUpTo x ↔ r ≤ x := by
  revert x r; decide

theorem idxOf_regsUpTo {x r : RegIdx} (h : r ≤ x) : (regsUpTo x).idxOf r = r.val := by
  revert x r; decide

theorem regsUpTo_ne_nil (x : RegIdx) : regsUpTo x ≠ [] := by
  intro h; have := regsUpTo_length x; rw [h] at this; simp at this

theorem regsUpTo_map_getD {β : Type} (x : RegIdx) (f : RegIdx → β) (d : β) (r : RegIdx) (h : r ≤ x) :
    ((regsUpTo x).map f).getD r.val d = f r := by
  have hl : r.val < (regsUpTo x).length := by rw [regsUpTo_length]; exact Nat.lt_succ_of_le h
  have hg : (regsUpTo x)[r.val] = r := by
    have := List.getElem_idxOf (x := r) (xs := regsUpTo x) (by rw [idxOf_regsUpTo h]; exact hl)
    simpa [idxOf_regsUpTo h] using this
  simp [List.getD, hl, hg]

/-! ### The stack -/

theorem State.push_ok {s : State} (a : Word) (h : s.stack.length < 16) :
    s.push a = .ok { s with stack := a :: s.stack, sp := s.sp + 1 } := by
  simp [State.push, h]

theorem State.push_full {s : State} (a : Word) (h : 16 ≤ s.stack.length) :
    s.push a = .error (s.raise .stackOverflow) := by
  simp [State.push, Nat.not_lt.2 h]

/-! ### The display -/

theorem fbGet_fbSet (fb : Display) (px py qx qy : Nat) (b : Bool) :
    fbGet (fbSet fb px py b) qx qy = if qx % 64 = px % 64 ∧ qy % 32 = py % 32 then b else fbGet fb qx qy := by
  simp only [fbGet, fbSet, Vector.get_eq_getElem, Vector.getElem_set, Fin.val_ofNat]
  by_cases h1 : px % 64 = qx % 64
  · by_cases h2 : py % 32 = qy % 32
    · simp [h1, h2]
    · simp [h1, h2, Ne.symm h2]
  · simp [h1, Ne.symm h1]

theorem State.pixel_setPixel (s : State) (px py qx qy : Nat) (b : Bool) :
    (s.setPixel px py b).pixel qx qy = if qx % 64 = px % 64 ∧ qy % 32 = py % 32 then b else s.pixel qx qy := by
  simp [State.pixel, fbGet_fbSet]

theorem State.pixel_mod (s : State) (px py : Nat) : s.pixel (px % 64) (py % 32) = s.pixel px py := by
  simp [State.pixel, fbGet, Fin.ofNat]

@[simp] theorem State.pixel_clearDisplay (s : State) (px py : Nat) : s.clearDisplay.pixel px py = false := by
  simp [State.pixel, fbGet, fbOff, Vector.get_eq_getElem]

end Sys2Proof.Machine
end

