-- ==== Sys2Proof/Laws/PerInstr.lean ====
section
/-! SUPPORT. For every instruction: the word the encoder writes lies in the instruction's row of the opcode map (R90),
so the encoder and the table of masks and patterns, both written from the spec, agree. -/

namespace Sys2Proof

theorem and_topMask (op : Word) : op &&& 0xF000#16 = wordNNN (topOf op) 0 := by
  refine BitVec.eq_of_getLsbD_eq fun i hi => ?_
  simp only [wordNNN, topOf, BitVec.getLsbD_append, BitVec.getLsbD_and, BitVec.getLsbD_extractLsb']
  interval_cases i <;> simp

theorem and_topLowNibbleMask (op : Word) : op &&& 0xF00F#16 = wordXYN (topOf op) 0 0 (nOf op) := by
  refine BitVec.eq_of_getLsbD_eq fun i hi => ?_
  simp only [wordXYN, topOf, nOf, nibble, BitVec.ofFin_toFin, BitVec.getLsbD_append, BitVec.getLsbD_and, BitVec.getLsbD_extractLsb']
  interval_cases i <;> simp

theorem and_topLowByteMask (op : Word) : op &&& 0xF0FF#16 = wordXKK (topOf op) 0 (kkOf op) := by
  refine BitVec.eq_of_getLsbD_eq fun i hi => ?_
  simp only [wordXKK, topOf, kkOf, nibble, BitVec.getLsbD_append, BitVec.getLsbD_and, BitVec.getLsbD_extractLsb']
  interval_cases i <;> simp

end Sys2Proof

namespace Sys2Proof.Laws

/-- The word of the instruction is in the instruction's own row of the opcode map. -/
def RowPattern.Statement (i : Instr) : Prop := i.row.holds (encode i) = true

theorem RowPattern.cls : RowPattern.Statement .cls := rfl

theorem RowPattern.ret : RowPattern.Statement .ret := rfl

theorem RowPattern.sys (nnn : Addr12) : RowPattern.Statement (.sys nnn) := by
  simp only [RowPattern.Statement, Instr.row, OpcodeRow.holds, encode, and_topMask, topOf_wordNNN]; decide

theorem RowPattern.jp (nnn : Addr12) : RowPattern.Statement (.jp nnn) := by
  simp only [RowPattern.Statement, Instr.row, OpcodeRow.holds, encode, and_topMask, topOf_wordNNN]; decide

theorem RowPattern.call (nnn : Addr12) : RowPattern.Statement (.call nnn) := by
  simp only [RowPattern.Statement, Instr.row, OpcodeRow.holds, encode, and_topMask, topOf_wordNNN]; decide

theorem RowPattern.seImm (x : RegIdx) (kk : Byte) : RowPattern.Statement (.seImm x kk) := by
  simp only [RowPattern.Statement, Instr.row, OpcodeRow.holds, encode, and_topMask, topOf_wordXKK]; decide

theorem RowPattern.sneImm (x : RegIdx) (kk : Byte) : RowPattern.Statement (.sneImm x kk) := by
  simp only [RowPattern.Statement, Instr.row, OpcodeRow.holds, encode, and_topMask, topOf_wordXKK]; decide

theorem RowPattern.seReg (x : RegIdx) (y : RegIdx) : RowPattern.Statement (.seReg x y) := by
  simp only [RowPattern.Statement, Instr.row, OpcodeRow.holds, encode, and_topLowNibbleMask, topOf_wordXYN, nOf_wordXYN]; decide

theorem RowPattern.sneReg (x : RegIdx) (y : RegIdx) : RowPattern.Statement (.sneReg x y) := by
  simp only [RowPattern.Statement, Instr.row, OpcodeRow.holds, encode, and_topLowNibbleMask, topOf_wordXYN, nOf_wordXYN]; decide

theorem RowPattern.ldImm (x : RegIdx) (kk : Byte) : RowPattern.Statement (.ldImm x kk) := by
  simp only [RowPattern.Statement, Instr.row, OpcodeRow.holds, encode, and_topMask, topOf_wordXKK]; decide

theorem RowPattern.addImm (x : RegIdx) (kk : Byte) : RowPattern.Statement (.addImm x kk) := by
  simp only [RowPattern.Statement, Instr.row, OpcodeRow.holds, encode, and_topMask, topOf_wordXKK]; decide

theorem RowPattern.ldReg (x : RegIdx) (y : RegIdx) : RowPattern.Statement (.ldReg x y) := by
  simp only [RowPattern.Statement, Instr.row, OpcodeRow.holds, encode, and_topLowNibbleMask, topOf_wordXYN, nOf_wordXYN]; decide

theorem RowPattern.orReg (x : RegIdx) (y : RegIdx) : RowPattern.Statement (.orReg x y) := by
  simp only [RowPattern.Statement, Instr.row, OpcodeRow.holds, encode, and_topLowNibbleMask, topOf_wordXYN, nOf_wordXYN]; decide

theorem RowPattern.andReg (x : RegIdx) (y : RegIdx) : RowPattern.Statement (.andReg x y) := by
  simp only [RowPattern.Statement, Instr.row, OpcodeRow.holds, encode, and_topLowNibbleMask, topOf_wordXYN, nOf_wordXYN]; decide

theorem RowPattern.xorReg (x : RegIdx) (y : RegIdx) : RowPattern.Statement (.xorReg x y) := by
  simp only [RowPattern.Statement, Instr.row, OpcodeRow.holds, encode, and_topLowNibbleMask, topOf_wordXYN, nOf_wordXYN]; decide

theorem RowPattern.addReg (x : RegIdx) (y : RegIdx) : RowPattern.Statement (.addReg x y) := by
  simp only [RowPattern.Statement, Instr.row, OpcodeRow.holds, encode, and_topLowNibbleMask, topOf_wordXYN, nOf_wordXYN]; decide

theorem RowPattern.sub (x : RegIdx) (y : RegIdx) : RowPattern.Statement (.sub x y) := by
  simp only [RowPattern.Statement, Instr.row, OpcodeRow.holds, encode, and_topLowNibbleMask, topOf_wordXYN, nOf_wordXYN]; decide

theorem RowPattern.shr (x : RegIdx) (y : RegIdx) : RowPattern.Statement (.shr x y) := by
  simp only [RowPattern.Statement, Instr.row, OpcodeRow.holds, encode, and_topLowNibbleMask, topOf_wordXYN, nOf_wordXYN]; decide

theorem RowPattern.subn (x : RegIdx) (y : RegIdx) : RowPattern.Statement (.subn x y) := by
  simp only [RowPattern.Statement, Instr.row, OpcodeRow.holds, encode, and_topLowNibbleMask, topOf_wordXYN, nOf_wordXYN]; decide

theorem RowPattern.shl (x : RegIdx) (y : RegIdx) : RowPattern.Statement (.shl x y) := by
  simp only [RowPattern.Statement, Instr.row, OpcodeRow.holds, encode, and_topLowNibbleMask, topOf_wordXYN, nOf_wordXYN]; decide

theorem RowPattern.ldI (nnn : Addr12) : RowPattern.Statement (.ldI nnn) := by
  simp only [RowPattern.Statement, Instr.row, OpcodeRow.holds, encode, and_topMask, topOf_wordNNN]; decide

theorem RowPattern.jpOff (nnn : Addr12) : RowPattern.Statement (.jpOff nnn) := by
  simp only [RowPattern.Statement, Instr.row, OpcodeRow.holds, encode, and_topMask, topOf_wordNNN]; decide

theorem RowPattern.rnd (x : RegIdx) (kk : Byte) : RowPattern.Statement (.rnd x kk) := by
  simp only [RowPattern.Statement, Instr.row, OpcodeRow.holds, encode, and_topMask, topOf_wordXKK]; decide

theorem RowPattern.drw (x : RegIdx) (y : RegIdx) (n : Fin 16) : RowPattern.Statement (.drw x y n) := by
  simp only [RowPattern.Statement, Instr.row, OpcodeRow.holds, encode, and_topMask, topOf_wordXYN]; decide

theorem RowPattern.skp (x : RegIdx) : RowPattern.Statement (.skp x) := by
  simp only [RowPattern.Statement, Instr.row, OpcodeRow.holds, encode, and_topLowByteMask, topOf_wordXKK, kkOf_wordXKK]; decide

theorem RowPattern.sknp (x : RegIdx) : RowPattern.Statement (.sknp x) := by
  simp only [RowPattern.Statement, Instr.row, OpcodeRow.holds, encode, and_topLowByteMask, topOf_wordXKK, kkOf_wordXKK]; decide

theorem RowPattern.ldFromDt (x : RegIdx) : RowPattern.Statement (.ldFromDt x) := by
  simp only [RowPattern.Statement, Instr.row, OpcodeRow.holds, encode, and_topLowByteMask, topOf_wordXKK, kkOf_wordXKK]; decide

theorem RowPattern.ldDt (x : RegIdx) : RowPattern.Statement (.ldDt x) := by
  simp only [RowPattern.Statement, Instr.row, OpcodeRow.holds, encode, and_topLowByteMask, topOf_wordXKK, kkOf_wordXKK]; decide

theorem RowPattern.ldSt (x : RegIdx) : RowPattern.Statement (.ldSt x) := by
  simp only [RowPattern.Statement, Instr.row, OpcodeRow.holds, encode, and_topLowByteMask, topOf_wordXKK, kkOf_wordXKK]; decide

theorem RowPattern.ldKey (x : RegIdx) : RowPattern.Statement (.ldKey x) := by
  simp only [RowPattern.Statement, Instr.row, OpcodeRow.holds, encode, and_topLowByteMask, topOf_wordXKK, kkOf_wordXKK]; decide

theorem RowPattern.addI (x : RegIdx) : RowPattern.Statement (.addI x) := by
  simp only [RowPattern.Statement, Instr.row, OpcodeRow.holds, encode, and_topLowByteMask, topOf_wordXKK, kkOf_wordXKK]; decide

theorem RowPattern.ldFont (x : RegIdx) : RowPattern.Statement (.ldFont x) := by
  simp only [RowPattern.Statement, Instr.row, OpcodeRow.holds, encode, and_topLowByteMask, topOf_wordXKK, kkOf_wordXKK]; decide

theorem RowPattern.ldBcd (x : RegIdx) : RowPattern.Statement (.ldBcd x) := by
  simp only [RowPattern.Statement, Instr.row, OpcodeRow.holds, encode, and_topLowByteMask, topOf_wordXKK, kkOf_wordXKK]; decide

theorem RowPattern.stRegs (x : RegIdx) : RowPattern.Statement (.stRegs x) := by
  simp only [RowPattern.Statement, Instr.row, OpcodeRow.holds, encode, and_topLowByteMask, topOf_wordXKK, kkOf_wordXKK]; decide

theorem RowPattern.ldRegs (x : RegIdx) : RowPattern.Statement (.ldRegs x) := by
  simp only [RowPattern.Statement, Instr.row, OpcodeRow.holds, encode, and_topLowByteMask, topOf_wordXKK, kkOf_wordXKK]; decide

end Sys2Proof.Laws
end

