-- ==== Sys2Proof/Laws/Screen.lean ====
section
/-! SUPPORT. What drawing the rows of a sprite does to the pixels and to the collision (44_display.md R201 to R203). -/

namespace Sys2Proof.Machine

theorem State.flipsWhen_congr {s t : State} {px q : Nat} {p p' : Prop} (h : p ↔ p') (hp : s.flipsWhen t px q p) :
    s.flipsWhen t px q p' := ⟨fun h' => hp.1 (h.2 h'), fun h' => hp.2 (fun g => h' (h.1 g))⟩

/-- Two flips after one another, never both of the same pixel. -/
theorem State.flipsWhen_trans {s u t : State} {px q : Nat} {p p' : Prop} (h1 : s.flipsWhen u px q p)
    (h2 : u.flipsWhen t px q p') (hno : ¬ (p ∧ p')) : s.flipsWhen t px q (p ∨ p') := by
  refine ⟨?_, fun h => ?_⟩
  · rintro (h | h)
    · rw [h2.2 (fun g => hno ⟨h, g⟩), h1.1 h]
    · rw [h2.1 h, h1.2 (fun g => hno ⟨g, h⟩)]
  · rw [h2.2 (fun g => h (.inr g)), h1.2 (fun g => h (.inl g))]

/-- A drawn row: each lit bit flips its own pixel, nothing else changes, and a flipped pixel that was on is a hit. -/
theorem State.drawRow_spec (x0 py : Nat) (b : Byte) (cs : List Nat) (s : State) (hit : Bool)
    (hn : cs.Nodup) (h8 : ∀ c ∈ cs, c < 8) :
    (State.drawRow x0 py b cs (s, hit)).1 = { s with fb := (State.drawRow x0 py b cs (s, hit)).1.fb } ∧
    (∀ px < 64, ∀ q < 32, s.flipsWhen (State.drawRow x0 py b cs (s, hit)).1 px q
      (q = py % 32 ∧ ∃ c ∈ cs, b.getLsbD (7 - c) = true ∧ px = (x0 + c) % 64)) ∧
    ((State.drawRow x0 py b cs (s, hit)).2 = true ↔
      hit = true ∨ ∃ c ∈ cs, b.getLsbD (7 - c) = true ∧ s.pixel (x0 + c) py = true) := by
  induction cs generalizing s hit with
  | nil => exact ⟨rfl, fun px _ q _ => by simp [State.drawRow, State.flipsWhen], by simp [State.drawRow]⟩
  | cons c cs ih =>
    rw [List.nodup_cons] at hn
    have h8' : ∀ d ∈ cs, d < 8 := fun d hd => h8 d (List.mem_cons_of_mem _ hd)
    have hc8 : c < 8 := h8 c (List.mem_cons_self ..)
    simp only [State.drawRow]
    by_cases hb : b.getLsbD (7 - c) = true
    · simp only [hb, if_true, State.flipPixel]
      obtain ⟨h1, h2, h3⟩ := ih (s.setPixel (x0 + c) py (!s.pixel (x0 + c) py)) (hit || s.pixel (x0 + c) py) hn.2 h8'
      have hne : ∀ d ∈ cs, (x0 + d) % 64 ≠ (x0 + c) % 64 := by
        intro d hd he
        have := h8' d hd
        exact hn.1 ((show c = d by omega) ▸ hd)
      refine ⟨by rw [h1]; rfl, fun px hpx q hq => ?_, ?_⟩
      · have hfirst : s.flipsWhen (s.setPixel (x0 + c) py (!s.pixel (x0 + c) py)) px q
            (q = py % 32 ∧ px = (x0 + c) % 64) := by
          simp only [State.flipsWhen, State.pixel_setPixel, Nat.mod_eq_of_lt hpx, Nat.mod_eq_of_lt hq]
          refine ⟨?_, fun h => if_neg (fun g => h ⟨g.2, g.1⟩)⟩
          rintro ⟨rfl, rfl⟩
          simp [State.pixel_mod]
        refine State.flipsWhen_congr ?_ (State.flipsWhen_trans hfirst (h2 px hpx q hq) ?_)
        · simp only [List.mem_cons, exists_eq_or_imp, hb, true_and]; tauto
        · rintro ⟨⟨-, h4⟩, -, d, hd, -, h5⟩
          exact hne d hd (h5 ▸ h4)
      · rw [h3]
        have hother : ∀ d ∈ cs, (s.setPixel (x0 + c) py (!s.pixel (x0 + c) py)).pixel (x0 + d) py = s.pixel (x0 + d) py := by
          intro d hd
          rw [State.pixel_setPixel, if_neg]
          exact fun h => hne d hd h.1
        simp only [Bool.or_eq_true, List.mem_cons, exists_eq_or_imp, hb, true_and, or_assoc]
        refine or_congr Iff.rfl (or_congr Iff.rfl (exists_congr fun d => and_congr_right fun hd => ?_))
        rw [hother d hd]
    · simp only [hb, Bool.false_eq_true, if_false]
      obtain ⟨h1, h2, h3⟩ := ih s hit hn.2 h8'
      refine ⟨h1, fun px hpx q hq => State.flipsWhen_congr ?_ (h2 px hpx q hq), ?_⟩
      · simp [hb]
      · rw [h3]
        simp [hb]

/-- The frame of a drawn row, for any columns. -/
theorem State.drawRow_frame (x0 py : Nat) (b : Byte) (s : State) (hit : Bool) :
    (State.drawRow x0 py b (List.range 8) (s, hit)).1 =
      { s with fb := (State.drawRow x0 py b (List.range 8) (s, hit)).1.fb } :=
  (State.drawRow_spec x0 py b _ s hit List.nodup_range (by simp)).1

/-- Rows r0 to r0 + k - 1 of a sprite whose bytes all lie in the address space. -/
theorem State.drawRows_ok (x0 y0 addr r0 k : Nat) (s : State) (hit : Bool) (hk : r0 + k ≤ 32)
    (ha : addr + r0 + k ≤ 0x1000) :
    ∃ t hit', State.drawRows x0 y0 addr (List.range' r0 k) (s, hit) = .ok (t, hit') ∧ t = { s with fb := t.fb } ∧
    (∀ px < 64, ∀ q < 32, s.flipsWhen t px q
      (∃ r c, r0 ≤ r ∧ r < r0 + k ∧ c < 8 ∧ (s.peek (addr + r)).getLsbD (7 - c) = true ∧
        px = (x0 + c) % 64 ∧ q = (y0 + r) % 32)) ∧
    (hit' = true ↔ hit = true ∨ ∃ r c, r0 ≤ r ∧ r < r0 + k ∧ c < 8 ∧
      (s.peek (addr + r)).getLsbD (7 - c) = true ∧ s.pixel (x0 + c) (y0 + r) = true) := by
  induction k generalizing r0 s hit with
  | zero =>
    refine ⟨s, hit, rfl, rfl, fun px _ q _ => ?_, ?_⟩
    · have : ¬ ∃ r c, r0 ≤ r ∧ r < r0 + 0 ∧ c < 8 ∧ (s.peek (addr + r)).getLsbD (7 - c) = true ∧
          px = (x0 + c) % 64 ∧ q = (y0 + r) % 32 := by
        rintro ⟨r, c, h1, h2, -⟩; omega
      exact ⟨fun h => absurd h this, fun _ => rfl⟩
    · constructor
      · exact .inl
      · rintro (h | ⟨r, c, h1, h2, -⟩)
        · exact h
        · omega
  | succ k ih =>
    obtain ⟨g1, g2, g3⟩ := State.drawRow_spec x0 (y0 + r0) (s.peek (addr + r0)) (List.range 8) s hit List.nodup_range
      (by simp)
    set u := (State.drawRow x0 (y0 + r0) (s.peek (addr + r0)) (List.range 8) (s, hit)).1 with hu
    set hit1 := (State.drawRow x0 (y0 + r0) (s.peek (addr + r0)) (List.range 8) (s, hit)).2 with hh1
    have hpeek : ∀ a, u.peek a = s.peek a := fun a => by rw [g1]; rfl
    obtain ⟨t, hit', e1, e2, e3, e4⟩ := ih (r0 + 1) u hit1 (by omega) (by omega)
    refine ⟨t, hit', ?_, ?_, fun px hpx q hq => ?_, ?_⟩
    · simp only [List.range'_succ, State.drawRows, State.memRead_ok (show addr + r0 ≤ 0xFFF by omega)]
      rw [show State.drawRow x0 (y0 + r0) (s.peek (addr + r0)) (List.range 8) (s, hit) = (u, hit1) from rfl]
      exact e1
    · rw [e2, g1]
    · have g4 := e3 px hpx q hq
      simp only [hpeek] at g4
      have split : (∃ r c, r0 ≤ r ∧ r < r0 + (k + 1) ∧ c < 8 ∧ (s.peek (addr + r)).getLsbD (7 - c) = true ∧
            px = (x0 + c) % 64 ∧ q = (y0 + r) % 32) ↔
          (q = (y0 + r0) % 32 ∧ ∃ c ∈ List.range 8, (s.peek (addr + r0)).getLsbD (7 - c) = true ∧ px = (x0 + c) % 64) ∨
          (∃ r c, r0 + 1 ≤ r ∧ r < r0 + 1 + k ∧ c < 8 ∧ (s.peek (addr + r)).getLsbD (7 - c) = true ∧
            px = (x0 + c) % 64 ∧ q = (y0 + r) % 32) := by
        constructor
        · rintro ⟨r, c, h1, h2, h3, h4, h5, h6⟩
          rcases eq_or_ne r r0 with rfl | hr
          · exact .inl ⟨h6, c, by simpa using h3, h4, h5⟩
          · exact .inr ⟨r, c, by omega, by omega, h3, h4, h5, h6⟩
        · rintro (⟨h6, c, h3, h4, h5⟩ | ⟨r, c, h1, h2, h3, h4, h5, h6⟩)
          · exact ⟨r0, c, le_rfl, by omega, by simpa using h3, h4, h5, h6⟩
          · exact ⟨r, c, by omega, by omega, h3, h4, h5, h6⟩
      have excl : ¬ ((q = (y0 + r0) % 32 ∧
            ∃ c ∈ List.range 8, (s.peek (addr + r0)).getLsbD (7 - c) = true ∧ px = (x0 + c) % 64) ∧
          (∃ r c, r0 + 1 ≤ r ∧ r < r0 + 1 + k ∧ c < 8 ∧ (s.peek (addr + r)).getLsbD (7 - c) = true ∧
            px = (x0 + c) % 64 ∧ q = (y0 + r) % 32)) := by
        rintro ⟨⟨h6, -⟩, ⟨r, c, h1, h2, -, -, -, h7⟩⟩
        omega
      exact State.flipsWhen_congr split.symm (State.flipsWhen_trans (g2 px hpx q hq) g4 excl)
    · rw [e4, g3]
      simp only [hpeek]
      have hpix : ∀ r c, r0 + 1 ≤ r → r < r0 + 1 + k → u.pixel (x0 + c) (y0 + r) = s.pixel (x0 + c) (y0 + r) := by
        intro r c h1 h2
        have := (g2 ((x0 + c) % 64) (Nat.mod_lt _ (by omega)) ((y0 + r) % 32) (Nat.mod_lt _ (by omega))).2
          (fun h => by have := h.1; omega)
        rw [State.pixel_mod, State.pixel_mod] at this
        exact this
      rw [or_assoc]
      refine or_congr Iff.rfl ?_
      constructor
      · rintro (⟨c, h3, h4, h5⟩ | ⟨r, c, h1, h2, h3, h4, h5⟩)
        · exact ⟨r0, c, le_rfl, by omega, by simpa using h3, h4, h5⟩
        · exact ⟨r, c, by omega, by omega, h3, h4, by rw [← hpix r c h1 h2]; exact h5⟩
      · rintro ⟨r, c, h1, h2, h3, h4, h5⟩
        rcases eq_or_ne r r0 with rfl | hr
        · exact .inl ⟨c, by simpa using h3, h4, h5⟩
        · exact .inr ⟨r, c, by omega, by omega, h3, h4, by rw [hpix r c (by omega) (by omega)]; exact h5⟩

/-- A sprite that runs past `0xFFF`: the rows below are drawn, and the fault names the lowest failing address (R201,
D7). -/
theorem State.drawRows_fault (x0 y0 addr r0 k : Nat) (s : State) (hit : Bool) (hk : r0 + k ≤ 32)
    (ha : 0x1000 < addr + r0 + k) (h0 : 0 < k) :
    ∃ t, State.drawRows x0 y0 addr (List.range' r0 k) (s, hit) = .error t ∧
    t = { s with fb := t.fb, halt := .faulted (.addressOutOfRange (max (addr + r0) 0x1000)) } ∧
    (∀ px < 64, ∀ q < 32, s.flipsWhen t px q
      (∃ r c, r0 ≤ r ∧ r < r0 + k ∧ addr + r ≤ 0xFFF ∧ c < 8 ∧ (s.peek (addr + r)).getLsbD (7 - c) = true ∧
        px = (x0 + c) % 64 ∧ q = (y0 + r) % 32)) := by
  by_cases hlow : addr + r0 ≤ 0xFFF
  · obtain ⟨m, hm⟩ : ∃ m, addr + r0 + m = 0x1000 := ⟨0x1000 - (addr + r0), by omega⟩
    obtain ⟨u, hit1, e1, e2, e3, -⟩ := State.drawRows_ok x0 y0 addr r0 m s hit (by omega) (by omega)
    have happ : ∀ (l l' : List Nat) (acc : State × Bool), State.drawRows x0 y0 addr (l ++ l') acc =
        (match State.drawRows x0 y0 addr l acc with
          | .ok acc' => State.drawRows x0 y0 addr l' acc'
          | .error t => .error t) := by
      intro l l'
      induction l with
      | nil => intro acc; rfl
      | cons r l ih =>
        intro acc
        simp only [List.cons_append, State.drawRows]
        cases acc.1.memRead (addr + r) with
        | error k => rfl
        | ok b => exact ih _
    have hsplit : List.range' r0 k = List.range' r0 m ++ (r0 + m) :: List.range' (r0 + m + 1) (k - m - 1) := by
      rw [← List.range'_succ, show k - m - 1 + 1 = k - m by omega, List.range'_append_1]
      congr 1; omega
    refine ⟨u.raise (.addressOutOfRange (addr + (r0 + m))), ?_, ?_, fun px hpx q hq => ?_⟩
    · rw [hsplit, happ, e1]
      simp only [State.drawRows, State.memRead_error (show 0xFFF < addr + (r0 + m) by omega)]
    · rw [show max (addr + r0) 0x1000 = addr + (r0 + m) by omega, State.raise]
      rw [e2]
    · have h3 := e3 px hpx q hq
      have : (∃ r c, r0 ≤ r ∧ r < r0 + m ∧ c < 8 ∧ (s.peek (addr + r)).getLsbD (7 - c) = true ∧
            px = (x0 + c) % 64 ∧ q = (y0 + r) % 32) ↔
          (∃ r c, r0 ≤ r ∧ r < r0 + k ∧ addr + r ≤ 0xFFF ∧ c < 8 ∧ (s.peek (addr + r)).getLsbD (7 - c) = true ∧
            px = (x0 + c) % 64 ∧ q = (y0 + r) % 32) := by
        constructor
        · rintro ⟨r, c, h1, h2, h3⟩; exact ⟨r, c, h1, by omega, by omega, h3⟩
        · rintro ⟨r, c, h1, h2, h3, h4⟩; exact ⟨r, c, h1, by omega, h4⟩
      simp only [State.flipsWhen, State.pixel_raise]
      exact State.flipsWhen_congr this h3
  · obtain ⟨k, rfl⟩ : ∃ j, k = j + 1 := ⟨k - 1, by omega⟩
    refine ⟨s.raise (.addressOutOfRange (addr + r0)), ?_, ?_, fun px hpx q hq => ?_⟩
    · simp only [List.range'_succ, State.drawRows, State.memRead_error (show 0xFFF < addr + r0 by omega)]
    · rw [show max (addr + r0) 0x1000 = addr + r0 by omega]; rfl
    · have : ¬ ∃ r c, r0 ≤ r ∧ r < r0 + (k + 1) ∧ addr + r ≤ 0xFFF ∧ c < 8 ∧
          (s.peek (addr + r)).getLsbD (7 - c) = true ∧ px = (x0 + c) % 64 ∧ q = (y0 + r) % 32 := by
        rintro ⟨r, c, h1, h2, h3, -⟩; omega
      exact ⟨fun h => absurd h this, fun _ => rfl⟩

/-- Whether or not the drawing ends early, it changes the display and, by the fault, `HALT` only. -/
theorem State.drawRows_frame (x0 y0 addr : Nat) (rs : List Nat) (s : State) (hit : Bool) :
    (∃ t h, State.drawRows x0 y0 addr rs (s, hit) = .ok (t, h) ∧ t = { s with fb := t.fb }) ∨
    (∃ t k, State.drawRows x0 y0 addr rs (s, hit) = .error t ∧
      t = { s with fb := t.fb, halt := .faulted (.addressOutOfRange k) }) := by
  induction rs generalizing s hit with
  | nil => exact .inl ⟨s, hit, rfl, rfl⟩
  | cons r rs ih =>
    by_cases ha : addr + r ≤ 0xFFF
    · simp only [State.drawRows, State.memRead_ok ha]
      have g := State.drawRow_frame x0 (y0 + r) (s.peek (addr + r)) s hit
      set acc := State.drawRow x0 (y0 + r) (s.peek (addr + r)) (List.range 8) (s, hit) with hacc
      rcases ih acc.1 acc.2 with ⟨t, h, h1, h2⟩ | ⟨t, k, h1, h2⟩
      · exact .inl ⟨t, h, h1, by rw [h2, g]⟩
      · exact .inr ⟨t, k, h1, by rw [h2, g]⟩
    · simp only [State.drawRows, State.memRead_error (show 0xFFF < addr + r by omega)]
      exact .inr ⟨_, addr + r, rfl, rfl⟩

end Sys2Proof.Machine
end

