-- ==== Sys2Proof/Laws/Step.lean ====
section
/-! SUPPORT. What the fetch and a step can do. -/

namespace Sys2Proof.Machine

theorem State.fetch_ok {s : State} (h : s.pc.toNat ≤ 0xFFE) : s.fetch = .ok s.wordAtPc := by
  simp only [State.fetch, State.memRead_ok (show s.pc.toNat ≤ 0xFFF by omega),
    State.memRead_ok (show s.pc.toNat + 1 ≤ 0xFFF by omega), State.wordAtPc]

theorem State.fetch_fault {s : State} (h : 0xFFE < s.pc.toNat) :
    s.fetch = .error (.addressOutOfRange (max s.pc.toNat 0x1000)) := by
  by_cases h1 : s.pc.toNat ≤ 0xFFF
  · simp only [State.fetch, State.memRead_ok h1, State.memRead_error (show 0xFFF < s.pc.toNat + 1 by omega),
      show max s.pc.toNat 0x1000 = s.pc.toNat + 1 by omega]
  · simp only [State.fetch, State.memRead_error (show 0xFFF < s.pc.toNat by omega),
      show max s.pc.toNat 0x1000 = s.pc.toNat by omega]

@[simp] theorem State.wordAtPc_beginCycle (s : State) : s.beginCycle.wordAtPc = s.wordAtPc := by
  simp [State.wordAtPc]

/-- The three ways a step answers a next state: the fetch faults, the word is illegal, or its instruction executes. -/
theorem step_cases {s t : State} (h : step s = .next t) :
    s.canCycle ∧
    ((0xFFE < s.pc.toNat ∧ t = s.beginCycle.raise (.addressOutOfRange (max s.pc.toNat 0x1000))) ∨
     (s.pc.toNat ≤ 0xFFE ∧ (∃ e, decode s.wordAtPc = .error e) ∧
        t = s.beginCycle.advancePc.raise (.unknownOpcode s.wordAtPc)) ∨
     (∃ i, s.about i ∧ exec i s.beginCycle.advancePc = .next t)) := by
  unfold step at h
  cases hh : s.halt with
  | faulted k => simp [hh] at h
  | running =>
    simp only [hh] at h
    split_ifs at h with hf
    refine ⟨⟨hh, by omega⟩, ?_⟩
    unfold State.runCycle at h
    by_cases hp : s.pc.toNat ≤ 0xFFE
    · rw [State.fetch_ok (s := s.beginCycle) (by simpa using hp), State.wordAtPc_beginCycle] at h
      cases hd : decode s.wordAtPc with
      | error e => simp only [hd, Host.Outcome.next.injEq] at h; exact .inr (.inl ⟨hp, ⟨e, rfl⟩, h.symm⟩)
      | ok i => simp only [hd] at h; exact .inr (.inr ⟨i, ⟨hp, hd⟩, h⟩)
    · rw [State.fetch_fault (s := s.beginCycle) (by simpa using hp)] at h
      simp only [State.beginCycle_pc, Host.Outcome.next.injEq] at h
      exact .inl ⟨by omega, h.symm⟩

end Sys2Proof.Machine
end

