-- ==== Sys2Proof/Tests/Slice0.lean ====
section
/-! SUPPORT. The model's own tests. Expected results come from spec/95_test_vectors.md, by the vector each docstring
names, or from the example of the rule it names. The last part shows, for every statement with hypotheses, that
concrete states meet them. -/

namespace Sys2Proof.Tests
open Sys2Proof.Machine

/-! ### Well-formedness: a system word may not be the word of another row -/

theorem test_wf_refuses_sys_0E0 : (Instr.sys 0x0E0#12).wf = false := by decide
theorem test_wf_refuses_sys_0EE : (Instr.sys 0x0EE#12).wf = false := by decide
theorem test_wf_admits_the_neighbours : ∀ a ∈ [0x0DF#12, 0x0E1#12, 0x0ED#12, 0x0EF#12, 0x1E0#12], (Instr.sys a).wf = true := by
  decide

/-! ### Decoding: words written out from the encodings of R90 -/

theorem test_decode_family_0 : [0x00E0#16, 0x00EE#16, 0x0123#16, 0x00FD#16].map decode =
    [.ok .cls, .ok .ret, .ok (.sys 0x123#12), .ok (.sys 0x0FD#12)] := rfl
theorem test_decode_jumps : [0x1ABC#16, 0x220A#16, 0xB210#16].map decode =
    [.ok (.jp 0xABC#12), .ok (.call 0x20A#12), .ok (.jpOff 0x210#12)] := rfl
theorem test_decode_skips : [0x3A42#16, 0x4205#16, 0x5120#16, 0x9120#16, 0xE59E#16, 0xE5A1#16].map decode =
    [.ok (.seImm 0xA 0x42#8), .ok (.sneImm 2 0x05#8), .ok (.seReg 1 2), .ok (.sneReg 1 2), .ok (.skp 5), .ok (.sknp 5)] := rfl
theorem test_decode_loads : [0x6AFF#16, 0x71FF#16, 0x8120#16, 0xC10F#16].map decode =
    [.ok (.ldImm 0xA 0xFF#8), .ok (.addImm 1 0xFF#8), .ok (.ldReg 1 2), .ok (.rnd 1 0x0F#8)] := rfl
theorem test_decode_family_8 : [0x8AB1#16, 0x8AB2#16, 0x8AB3#16, 0x8AB4#16, 0x8AB5#16, 0x8AB6#16, 0x8AB7#16, 0x8ABE#16].map decode =
    [.ok (.orReg 0xA 0xB), .ok (.andReg 0xA 0xB), .ok (.xorReg 0xA 0xB), .ok (.addReg 0xA 0xB),
     .ok (.sub 0xA 0xB), .ok (.shr 0xA 0xB), .ok (.subn 0xA 0xB), .ok (.shl 0xA 0xB)] := rfl
theorem test_decode_index_and_display : [0xA123#16, 0xDAB5#16].map decode =
    [.ok (.ldI 0x123#12), .ok (.drw 0xA 0xB 5)] := rfl
theorem test_decode_family_F : [0xF307#16, 0xF30A#16, 0xF315#16, 0xF318#16, 0xF31E#16, 0xF329#16, 0xF333#16, 0xF355#16,
      0xF365#16].map decode =
    [.ok (.ldFromDt 3), .ok (.ldKey 3), .ok (.ldDt 3), .ok (.ldSt 3), .ok (.addI 3), .ok (.ldFont 3), .ok (.ldBcd 3),
     .ok (.stRegs 3), .ok (.ldRegs 3)] := rfl
/-- T-ENC-6 to T-ENC-11. -/
theorem test_decode_refuses : ∀ w ∈ [0x5121#16, 0x912F#16, 0x8128#16, 0x812F#16, 0xE1A0#16, 0xF108#16, 0xF090#16],
    decode w = .error (.unknownOpcode w) := by
  simp only [List.forall_mem_cons]
  exact ⟨rfl, rfl, rfl, rfl, rfl, rfl, rfl, by simp⟩
/-- A byte stream is decoded high byte first, and a lone byte is no instruction (R57, R80). -/
theorem test_decode_bytes : decodeBytes [0x6A#8, 0xFF#8, 0x12#8] = .ok (.ldImm 0xA 0xFF#8, [0x12#8]) ∧
    decodeBytes [0x6A#8] = .error .truncated := ⟨rfl, rfl⟩
theorem test_decode_table_word : decodeTableWord 16 0x6AFF = some (.ldImm 0xA 0xFF#8) ∧
    decodeTableWord 16 0x5121 = none := ⟨rfl, rfl⟩
/-- T-SRC-9. -/
theorem test_extract_field : extractField 0x6789#16 0x0F00#16 = .ok 0x7#16 ∧
    extractField 0x6789#16 0xFFFF#16 = .error (.invalidMask 0xFFFF#16) := ⟨rfl, rfl⟩

/-! ### One cycle -/

/-- The start state of the vectors: reset, every quirk flag false, F = 500, display off, no key down. -/
def base : State :=
  { State.reset with
    cfg := { defaultConfig with qLogic := false, qShift := false, qJump := false, qLoadStore := false, freq := 500 }
    fb := fbOff
    inputs := [{ keys := 0, draw := 0, pick := 0 }] }

/-- The start state with every quirk flag true. -/
def quirks : State :=
  { base with cfg := { base.cfg with qLogic := true, qShift := true, qJump := true, qLoadStore := true } }

/-- The start state with one input to come. -/
def given (keys : BitVec 16) (draw : Byte) (pick : RegIdx) : State := { base with inputs := [{ keys, draw, pick }] }

/-- A state with V registers set. -/
def setVs (s : State) (l : List (RegIdx × Byte)) : State := l.foldl (fun t c => t.setV c.1 c.2) s

/-- A state with bytes of memory set. -/
def setBytes (s : State) (l : List (Nat × Byte)) : State := l.foldl (fun t c => t.poke c.1 c.2) s

/-- A state with n return addresses on the stack. -/
def deep (n : Nat) (s : State) : State := { s with stack := List.replicate n 0x202, sp := BitVec.ofNat 8 n }

/-- The state after the cycle that runs the word where `PC` points; the state itself where the step answers none. -/
def cycleOf (s : State) (w : Nat) : State :=
  match step (s.withFetchWord 16 w) with
  | .next t => t
  | .fault _ => s
  | .refused _ => s

/-- T-FLOW-1. -/
theorem test_ret : let t := cycleOf { base with stack := [0x345, 0x2A0], sp := 2 } 0x00EE
    t.pc = 0x345 ∧ t.stack = [0x2A0] ∧ t.sp = 1 := by decide
/-- T-FLOW-2. -/
theorem test_ret_underflow : let t := cycleOf base 0x00EE
    t.halt = .faulted .stackUnderflow ∧ t.pc = 0x202 ∧ t.sp = 0 := by decide
/-- T-FLOW-3. -/
theorem test_sys : let t := cycleOf base 0x0123
    t.pc = 0x202 ∧ t.halt = .running ∧ t.v = base.v := by decide
/-- T-FLOW-4. -/
theorem test_jp : (cycleOf base 0x1ABC).pc = 0xABC := by decide
/-- T-FLOW-8. -/
theorem test_call : let t := cycleOf (deep 15 base) 0x2300
    t.pc = 0x300 ∧ t.stack.length = 16 ∧ t.sp = 16 := by decide
/-- T-FLOW-9. -/
theorem test_call_overflow : let t := cycleOf (deep 16 base) 0x2300
    t.halt = .faulted .stackOverflow ∧ t.pc = 0x202 ∧ t.sp = 16 := by decide
/-- T-FLOW-10. -/
theorem test_se_imm : (cycleOf (base.setV 0xA 0x42) 0x3A42).pc = 0x204 ∧
    (cycleOf (base.setV 0xA 0x43) 0x3A42).pc = 0x202 := by decide
/-- T-FLOW-11. -/
theorem test_sne_imm : (cycleOf (base.setV 0xA 0x42) 0x4A42).pc = 0x202 ∧
    (cycleOf (base.setV 0xA 0x43) 0x4A42).pc = 0x204 := by decide
/-- T-FLOW-12. -/
theorem test_se_reg : (cycleOf (setVs base [(1, 7), (2, 7)]) 0x5120).pc = 0x204 ∧
    (cycleOf (setVs base [(1, 7), (2, 8)]) 0x5120).pc = 0x202 := by decide
/-- T-FLOW-14. -/
theorem test_sne_reg : (cycleOf (setVs base [(1, 7), (2, 7)]) 0x9120).pc = 0x202 ∧
    (cycleOf (setVs base [(1, 7), (2, 8)]) 0x9120).pc = 0x204 := by decide
/-- T-FLOW-17. -/
theorem test_jp_off : (cycleOf (base.setV 0 0xFF) 0xBFFF).pc = 0x10FE := by decide
/-- T-FLOW-19. -/
theorem test_jp_off_quirk : (cycleOf (setVs quirks [(0, 4), (2, 0x30)]) 0xB210).pc = 0x040 := by decide

/-- T-ALU-1, T-ALU-2. -/
theorem test_ld_imm : (cycleOf base 0x6AFF).getV 0xA = 0xFF ∧ (cycleOf base 0x6F12).getV 0xF = 0x12 := by decide
/-- T-ALU-3. -/
theorem test_add_imm : let t := cycleOf (setVs base [(0, 0xFF), (0xF, 5)]) 0x7001
    t.getV 0 = 0 ∧ t.getV 0xF = 5 := by decide
/-- T-ALU-5. -/
theorem test_ld_reg : (cycleOf (setVs base [(1, 1), (2, 0x99)]) 0x8120).getV 1 = 0x99 := by decide
/-- T-ALU-7. -/
theorem test_or : let t := cycleOf (setVs base [(1, 0xF0), (2, 0x0F), (0xF, 9)]) 0x8121
    t.getV 1 = 0xFF ∧ t.getV 0xF = 9 := by decide
/-- T-ALU-15. -/
theorem test_or_quirk_into_vf : (cycleOf (setVs quirks [(0xF, 0xF0), (1, 0x0F)]) 0x8F11).getV 0xF = 0 := by decide
/-- T-ALU-9. -/
theorem test_and : let t := cycleOf (setVs base [(1, 0xFC), (2, 0x3F), (0xF, 9)]) 0x8122
    t.getV 1 = 0x3C ∧ t.getV 0xF = 9 := by decide
/-- T-ALU-10. -/
theorem test_and_quirk : let t := cycleOf (setVs quirks [(1, 0xFC), (2, 0x3F), (0xF, 9)]) 0x8122
    t.getV 1 = 0x3C ∧ t.getV 0xF = 0 := by decide
/-- T-ALU-11. -/
theorem test_xor : let t := cycleOf (setVs base [(1, 0xFF), (2, 0x0F), (0xF, 9)]) 0x8123
    t.getV 1 = 0xF0 ∧ t.getV 0xF = 9 := by decide
/-- T-ALU-12. -/
theorem test_xor_quirk : let t := cycleOf (setVs quirks [(1, 0xFF), (2, 0x0F), (0xF, 9)]) 0x8123
    t.getV 1 = 0xF0 ∧ t.getV 0xF = 0 := by decide
/-- T-ALU-19: the old VF is the operand. -/
theorem test_add_reads_vf_first : let t := cycleOf (setVs base [(1, 0xFF), (0xF, 1)]) 0x81F4
    t.getV 1 = 0 ∧ t.getV 0xF = 1 := by decide
/-- T-ALU-20: the result wins over the carry. -/
theorem test_add_into_vf : (cycleOf (setVs base [(0xF, 0xF0), (1, 0x20)]) 0x8F14).getV 0xF = 0x10 := by decide
/-- T-ALU-22: equal operands give no flag. -/
theorem test_sub_equal : let t := cycleOf (setVs base [(1, 7), (2, 7), (0xF, 9)]) 0x8125
    t.getV 1 = 0 ∧ t.getV 0xF = 0 := by decide
/-- T-ALU-21. -/
theorem test_sub_greater : let t := cycleOf (setVs base [(1, 0x0A), (2, 3)]) 0x8125
    t.getV 1 = 7 ∧ t.getV 0xF = 1 := by decide
/-- T-ALU-26. -/
theorem test_subn : let t := cycleOf (setVs base [(1, 3), (2, 0x0A)]) 0x8127
    t.getV 1 = 7 ∧ t.getV 0xF = 1 := by decide
/-- T-ALU-28. -/
theorem test_subn_wraps : let t := cycleOf (setVs base [(1, 5), (2, 3), (0xF, 9)]) 0x8127
    t.getV 1 = 0xFE ∧ t.getV 0xF = 0 := by decide
/-- T-ALU-30. -/
theorem test_shr : let t := cycleOf (setVs base [(1, 0xFF), (2, 0x10)]) 0x8126
    t.getV 1 = 0x7F ∧ t.getV 0xF = 1 ∧ t.getV 2 = 0x10 := by decide
/-- T-ALU-32. -/
theorem test_shr_quirk : let t := cycleOf (setVs quirks [(1, 0xFE), (2, 0x11)]) 0x8126
    t.getV 1 = 0x08 ∧ t.getV 0xF = 1 := by decide
/-- T-ALU-36. -/
theorem test_shl : let t := cycleOf (setVs base [(1, 0x81), (2, 0x40)]) 0x812E
    t.getV 1 = 0x02 ∧ t.getV 0xF = 1 := by decide
/-- T-ALU-39. -/
theorem test_shl_quirk : let t := cycleOf (setVs quirks [(1, 0x7F), (2, 0x80)]) 0x812E
    t.getV 1 = 0 ∧ t.getV 0xF = 1 := by decide
/-- T-ALU-41. -/
theorem test_rnd : (cycleOf (given 0 0xA7 0) 0xC10F).getV 1 = 0x07 := by decide
/-- T-ALU-42, with a free draw. -/
theorem test_rnd_masked_out : (cycleOf { base with inputs := [] } 0xC100).pc = 0x202 := by decide

/-- T-IDX-1. -/
theorem test_ld_i : (cycleOf base 0xA123).i = 0x123 := by decide
/-- T-IDX-5. -/
theorem test_add_i_top : let t := cycleOf ((setVs base [(1, 0xFE), (0xF, 9)]).setI 0xF01) 0xF11E
    t.i = 0xFFF ∧ t.getV 0xF = 0 := by decide
/-- T-IDX-4. -/
theorem test_add_i_wraps : let t := cycleOf ((base.setV 1 3).setI 0xFFE) 0xF11E
    t.i = 0x001 ∧ t.getV 0xF = 1 := by decide
/-- T-IDX-11: the high nibble is ignored. -/
theorem test_ld_font : (cycleOf (base.setV 1 0xFF) 0xF129).i = 0x04B := by decide
/-- T-IDX-14. -/
theorem test_bcd : let t := cycleOf ((base.setV 1 255).setI 0xFFD) 0xF133
    t.peek 0xFFD = 2 ∧ t.peek 0xFFE = 5 ∧ t.peek 0xFFF = 5 ∧ t.halt = .running := by decide
/-- T-IDX-15. -/
theorem test_bcd_fault : let t := cycleOf ((base.setV 1 255).setI 0xFFE) 0xF133
    t.peek 0xFFE = 2 ∧ t.peek 0xFFF = 5 ∧ t.halt = .faulted (.addressOutOfRange 0x1000) ∧ t.pc = 0x202 := by decide
/-- T-IDX-18. -/
theorem test_store_regs : let t := cycleOf ((setVs quirks [(0, 0x11), (1, 0x22), (2, 0x33), (3, 0x44)]).setI 0x400) 0xF255
    t.peek 0x400 = 0x11 ∧ t.peek 0x402 = 0x33 ∧ t.peek 0x403 = 0 ∧ t.i = 0x403 := by decide
/-- T-IDX-20. -/
theorem test_store_regs_fault : let t := cycleOf ((setVs quirks [(0, 0xAB), (1, 0xCD)]).setI 0xFFF) 0xF155
    t.peek 0xFFF = 0xAB ∧ t.halt = .faulted (.addressOutOfRange 0x1000) ∧ t.i = 0xFFF := by decide
/-- T-IDX-22. -/
theorem test_load_regs : let t := cycleOf ((setBytes (base.setV 3 0x77) [(0x400, 0xDE), (0x402, 0xBE), (0x403, 0xEF)]).setI 0x400) 0xF265
    t.getV 0 = 0xDE ∧ t.getV 2 = 0xBE ∧ t.getV 3 = 0x77 ∧ t.i = 0x400 := by decide
/-- T-IDX-24. -/
theorem test_load_regs_fault : let t := cycleOf ((setBytes (setVs base [(0, 1), (1, 2)]) [(0xFFF, 0x5A)]).setI 0xFFF) 0xF165
    t.getV 0 = 0x5A ∧ t.getV 1 = 2 ∧ t.halt = .faulted (.addressOutOfRange 0x1000) := by decide

/-- T-DSP-9. -/
theorem test_cls : let t := cycleOf (((base.setV 0xF 1).setPixel 3 3 true).setPixel 63 31 true) 0x00E0
    t.pixel 3 3 = false ∧ t.pixel 63 31 = false ∧ t.getV 0xF = 1 ∧ t.renders = 0 := by decide
/-- The start of T-DSP-2. -/
def wrapStart : State :=
  (setBytes (setVs base [(1, 60), (2, 30)]) [(0x300, 0xFF), (0x301, 0x81), (0x302, 0xFF)]).setI 0x300

/-- T-DSP-2: each pixel wraps by itself. -/
theorem test_drw_wraps : let t := cycleOf wrapStart 0xD123
    t.pixel 63 30 = true ∧ t.pixel 0 30 = true ∧ t.pixel 61 31 = false ∧ t.pixel 3 31 = true ∧ t.pixel 3 0 = true ∧
      t.pixel 4 0 = false ∧ t.getV 0xF = 0 ∧ t.renders = 1 := by decide
/-- The start of T-DSP-3. -/
def collideStart : State :=
  (((setBytes base [(0x300, 0x60)]).setI 0x300).setPixel 0 0 true).setPixel 1 0 true

/-- T-DSP-3. -/
theorem test_drw_collides : let t := cycleOf collideStart 0xD121
    t.pixel 0 0 = true ∧ t.pixel 1 0 = false ∧ t.pixel 2 0 = true ∧ t.getV 0xF = 1 := by decide

/-- T-KEY-1, T-KEY-2. -/
theorem test_skp : (cycleOf ((given 0x0020 0 0).setV 1 5) 0xE19E).pc = 0x204 ∧
    (cycleOf ((given 0xFFDF 0 0).setV 1 5) 0xE19E).pc = 0x202 := by decide
/-- T-KEY-3, T-KEY-6. -/
theorem test_sknp : (cycleOf ((given 0x0020 0 0).setV 1 5) 0xE1A1).pc = 0x202 ∧
    (cycleOf ((given 0xFFFF 0 0).setV 1 0x15) 0xE1A1).pc = 0x204 := by decide
/-- T-KEY-7. -/
theorem test_ld_key_waits : let t := cycleOf (base.setV 3 0x99) 0xF30A
    t.pc = 0x200 ∧ t.getV 3 = 0x99 ∧ t.tick = 1 := by decide
/-- T-KEY-9: either key may be chosen. -/
theorem test_ld_key_reads : (cycleOf (given 0x8001 0 0xF) 0xF30A).getV 3 = 0x0F ∧
    (cycleOf (given 0x8001 0 0) 0xF30A).getV 3 = 0x00 := by decide
/-- T-TMR-2: the tick comes before the read. -/
theorem test_ld_from_dt : let t := cycleOf { base with dt := 0x2A, tick := 7 } 0xF107
    t.getV 1 = 0x29 ∧ t.dt = 0x29 ∧ t.tick = 0 := by decide
/-- T-TMR-3. -/
theorem test_ld_dt : (cycleOf (base.setV 0 3) 0xF015).dt = 3 := by decide
/-- T-TMR-5. -/
theorem test_ld_st : (cycleOf (base.setV 2 0x10) 0xF218).st = 16 := by decide

/-! ### Fetch, faults, reset, launch -/

/-- T-FLT-1. -/
theorem test_fetch_fault : let t := cycleOf { base with pc := 0xFFF } 0
    t.halt = .faulted (.addressOutOfRange 0x1000) ∧ t.pc = 0xFFF ∧ t.tick = 1 := by decide
/-- T-FLT-5. -/
theorem test_unknown_opcode : let t := cycleOf base 0x5121
    t.halt = .faulted (.unknownOpcode 0x5121) ∧ t.pc = 0x202 := by decide
/-- T-CYC-4: the font is executable. -/
theorem test_font_executes : step { base with pc := 0x005 } = .next { base with
    pc := 0x060, stack := [0x007], sp := 1, tick := 1, inputs := [], cycle := 1 } := rfl
/-- T-SRC-1: glyph 0, glyph 1 and the last byte of the default font, and zero above it. -/
theorem test_reset_memory : [0x000, 0x001, 0x005, 0x04F, 0x050, 0xFFF].map State.reset.peek =
    [0xF0, 0x90, 0x20, 0x80, 0x00, 0x00] := by decide
/-- The codes of R230. -/
theorem test_fault_codes : [FaultKind.addressOutOfRange 0, .valueOutOfRange 0, .unknownOpcode 0, .stackOverflow,
    .invalidMask 0, .stackUnderflow].map FaultKind.code = [1, 2, 3, 4, 5, 6] := rfl
/-- P2's first bytes, loaded from 0x200. -/
theorem test_load_program : let t := base.loadProgram [0x60, 0xEA, 0xA3]
    t.peek 0x200 = 0x60 ∧ t.peek 0x202 = 0xA3 ∧ t.peek 0x203 = 0 := by decide
/-- A write that restores the reset content leaves nothing listed (log 19). -/
theorem test_memory_is_canonical : ((base.poke 0x300 7).poke 0x300 0).mem = [] ∧ ((base.poke 0 7).poke 0 0xF0).mem = [] := by
  decide
/-- The next state of a program's first instruction from reset with the program in place (log 18). -/
theorem test_runs_from_reset : (cycleOf State.reset 0x6AFF).getV 0xA = 0xFF ∧ (cycleOf State.reset 0x6AFF).pc = 0x202 := by
  decide

/-! ### Concrete states that meet the hypotheses of the statements -/

/-- The start state with one word in memory at 0x200. -/
def at200 (w : Nat) : State := base.withFetchWord 16 w

/-- A word of T-ENC-6, which no instruction has. -/
theorem illegal_5121 : ∀ i, decode 0x5121#16 ≠ .ok i := by
  intro i h; have e : decode 0x5121#16 = .error (.unknownOpcode 0x5121#16) := rfl; rw [e] at h; cases h

theorem witness_DecodeInvertsEncode : (Instr.sys 0x0E1#12).wf = true ∧ (Instr.drw 15 15 15).wf = true := by decide
theorem witness_EncodeInvertsDecode : decode 0xFF65#16 = .ok (.ldRegs 15) := rfl
theorem witness_FieldsAreMaskedAndShifted :
    0xFFFF#16 ∉ [0xF000#16, 0x0FFF#16, 0x00FF#16, 0x0F00#16, 0x00F0#16, 0x000F#16] := by decide
theorem witness_FetchIsBigEndianOrFaults : { base with pc := 0xFFE }.pc.toNat ≤ 0xFFE ∧
    { base with pc := 0xFFF }.pc.toNat = 0xFFF ∧ 0x1000 ≤ { base with pc := 0x1000 }.pc.toNat := by decide
theorem witness_StepRunsTheDecodedInstruction : (at200 0xFF65).canCycle ∧ (at200 0xFF65).about (.ldRegs 15) :=
  ⟨⟨rfl, by decide⟩, by decide, rfl⟩
theorem witness_FetchFaultHaltsWithPcUnchanged :
    ({ base with pc := 0xFFF }.canCycle ∧ { base with pc := 0xFFF }.pc.toNat = 0xFFF) ∧
    ({ base with pc := 0x1000 }.canCycle ∧ 0x1000 ≤ { base with pc := 0x1000 }.pc.toNat) :=
  ⟨⟨⟨rfl, by decide⟩, rfl⟩, ⟨rfl, by decide⟩, by decide⟩
theorem witness_IllegalWordHaltsPastIt : (at200 0x5121).canCycle ∧ (at200 0x5121).pc.toNat ≤ 0xFFE ∧
    ∀ i, decode (at200 0x5121).wordAtPc ≠ .ok i :=
  ⟨⟨rfl, by decide⟩, by decide, illegal_5121⟩
theorem witness_HaltedMachineTakesNoStep : (base.raise .stackUnderflow).halt = .faulted .stackUnderflow := rfl
theorem witness_OnlyLowFrequencyIsRefused :
    step { base with cfg := { base.cfg with freq := 59 } } = .refused (.frequencyBelowSixty 59) := rfl
theorem witness_EveryCycleEndsInANextState : { base with cfg := { base.cfg with freq := 60 } }.canCycle :=
  ⟨rfl, by decide⟩
theorem witness_TimerTickCountsAndDecrements : { base with tick := 6 }.tick + 1 < base.cfg.freq / 60 ∧
    base.cfg.freq / 60 ≤ { base with tick := 7 }.tick + 1 := by decide
theorem witness_TimerCadence : { base with tick := 7 }.tick < timerDiv base.cfg := by decide
theorem witness_CycleTakesFreshInputs : (given 0x20 0xA7 5).inputs = { keys := 0x20, draw := 0xA7, pick := 5 } :: [] ∧
    State.reset.inputs = [] := ⟨rfl, rfl⟩
theorem witness_SelfJumpIsTheEnd : (at200 0x1200).canCycle ∧ (at200 0x1200).atEnd :=
  ⟨⟨rfl, by decide⟩, 0x200#12, ⟨by decide, rfl⟩, rfl⟩
theorem witness_ResetState : (0x050 : Nat) ≤ 0x050 := by decide
theorem witness_ProgramLoadsAt0x200 : (List.replicate 3584 (0xFF : Byte)).length ≤ 3584 ∧
    3584 < (List.replicate 3585 (0xFF : Byte)).length := by
  rw [List.length_replicate, List.length_replicate]; decide
theorem witness_ByteAccessIsRangeChecked : (0xFFF : Nat) ≤ 0xFFF ∧ 0xFFF < (0x1000 : Nat) := by decide
theorem witness_MemoriesThatReadAlikeAreEqual : Memory.wf defaultFont [(0x000, 0), (0x300, 7)] ∧
    ∀ a, Memory.read defaultFont [(0x000, 0), (0x300, 7)] a = Memory.read defaultFont [(0x000, 0), (0x300, 7)] a :=
  ⟨by decide, fun _ => rfl⟩
theorem witness_StoreIsSeenByTheNextFetch : { base with i := 0xFFE, pc := 0xFFE }.effAddr 1 ≤ 0xFFF ∧
    (0 : RegIdx) < 1 ∧ { base with i := 0xFFE, pc := 0xFFE }.pc.toNat = { base with i := 0xFFE, pc := 0xFFE }.effAddr 0 ∧
    ∃ t, exec (.stRegs 1) { base with i := 0xFFE, pc := 0xFFE } = .next t :=
  ⟨by decide, by decide, by decide, _, rfl⟩
theorem witness_ReturnPopsOrUnderflows : (deep 1 base).stack = 0x202 :: [] ∧ base.stack = [] := ⟨rfl, rfl⟩
theorem witness_SystemWordDoesNothing : 0x0E1#12 ≠ 0x0E0#12 ∧ 0x0E1#12 ≠ 0x0EE#12 := by decide
theorem witness_CallPushesOrOverflows : (deep 15 base).stack.length < 16 ∧ (deep 16 base).stack.length = 16 := by decide
theorem witness_ReturnUndoesCall : (deep 15 base).stack.length < 16 ∧ ∃ t, exec (.call 0x300#12) (deep 15 base) = .next t :=
  ⟨by decide, _, rfl⟩
theorem witness_JumpWithOffset : base.cfg.qJump = false ∧ quirks.cfg.qJump = true ∧
    (0xFFF#12).toNat = (15 : RegIdx).val * 0x100 + (0xFF : Byte).toNat := by decide
theorem witness_LogicIsBitwiseAndMayClearVf : (base.cfg.qLogic = false ∨ (15 : RegIdx) ≠ vf) ∧
    quirks.cfg.qLogic = true ∧ ((14 : RegIdx) ≠ 15 ∧ (quirks.cfg.qLogic = false ∨ (14 : RegIdx) ≠ vf)) ∧
    ((Instr.orReg 15 1 = .orReg 15 1 ∧ or = or) ∧ (Instr.andReg 15 1 = .andReg 15 1 ∧ and = and) ∧
      (Instr.xorReg 15 1 = .xorReg 15 1 ∧ xor = xor)) :=
  ⟨by decide, by decide, by decide, ⟨rfl, rfl⟩, ⟨rfl, rfl⟩, rfl, rfl⟩
/-- For AddSetsCarry, SubtractSetsGreater, ShiftsSetTheBitShiftedOut, AddToIndexReportsOverflow and the two loads. -/
theorem witness_registers_other_than_vf : (14 : RegIdx) ≠ vf ∧ (0 : RegIdx) ≠ 14 ∧ (0 : RegIdx) ≠ vf := by decide
theorem witness_ShiftsSetTheBitShiftedOut : 0x11 = (if quirks.cfg.qShift then (quirks.setV 2 0x11).getV 2
    else (quirks.setV 2 0x11).getV 1).toNat := by decide
theorem witness_RandomByteIsMasked : (7 : Nat) < 8 ∧ (1 : RegIdx) ≠ 0 := by decide
theorem witness_BcdStoresThreeDigits : 234 = ((base.setV 1 234).getV 1).toNat ∧
    (base.setI 0xFFD).effAddr 2 ≤ 0xFFF ∧ 0xFFF < (base.setI 0xFFE).effAddr 2 ∧
    0xFFF < (base.setI 0xFFFF).effAddr 2 := by decide
theorem witness_StoreRegisters_LoadRegisters : (base.setI 0xFF0).effAddr 15 ≤ 0xFFF ∧
    0xFFF < (base.setI 0xFF1).effAddr 15 ∧ 0xFFF < (base.setI 0x1000).effAddr 0 ∧
    (base.setI 0xFF1).effAddr 14 ≤ 0xFFF := by decide
theorem witness_LoadRestoresWhatStoreSaved : (base.setI 0xFF0).effAddr 15 ≤ 0xFFF ∧
    ∃ t u, exec (.stRegs 15) (base.setI 0xFF0) = .next t ∧
      exec (.ldRegs 15) { t with v := Vector.replicate 16 0, i := (base.setI 0xFF0).i } = .next u :=
  ⟨by decide, _, _, rfl, rfl⟩
theorem witness_DrawXorsTheSprite : ((0 : Fin 16).val = 0 ∨ (base.setI 0xFFFF).effAddr 0 ≤ 0x1000) ∧
    ((15 : Fin 16).val = 0 ∨ (base.setI 0xFF1).effAddr 15 ≤ 0x1000) ∧
    ((15 : Fin 16).val ≠ 0 ∧ 0x1000 < (base.setI 0xFF2).effAddr 15) := by decide
theorem witness_DrawXorsTheSprite_hit :
    ∃ t, exec (.drw 0 0 1) collideStart = .next t ∧ collideStart.pixel 1 0 = true ∧ t.pixel 1 0 = false :=
  ⟨_, rfl, by decide, by decide⟩
theorem witness_DrawXorsTheSprite_no_hit : ∃ t, exec (.drw 0 0 0) base = .next t ∧
    ¬ ∃ px py, px < 64 ∧ py < 32 ∧ base.pixel px py = true ∧ t.pixel px py = false := by
  refine ⟨_, rfl, ?_⟩
  rintro ⟨px, py, -, -, h, -⟩
  simp [State.pixel, fbGet, base, fbOff, Vector.get_eq_getElem] at h
theorem witness_DrawingTwiceRestoresTheDisplay : (0 : RegIdx) ≠ vf ∧
    ((5 : Fin 16).val = 0 ∨ base.effAddr 5 ≤ 0x1000) ∧
    ∃ t u, exec (.drw 0 0 5) base = .next t ∧ exec (.drw 0 0 5) t = .next u ∧ u.getV vf = 1 :=
  ⟨by decide, by decide, _, _, rfl, rfl, by decide⟩
/-- A state with V1 and the keys that are down. -/
def keyed (b : Byte) (keys : BitVec 16) : State := { base.setV 1 b with input := { base.input with keys := keys } }

theorem witness_KeySkipsAreComplements :
    (∃ k : RegIdx, ((keyed 0xF 0x8000).getV 1).toNat = k.val ∧ (keyed 0xF 0x8000).input.keys.getLsbD k.val = true) ∧
    (¬ ∃ k : RegIdx, ((keyed 0x10 0xFFFF).getV 1).toNat = k.val ∧ (keyed 0x10 0xFFFF).input.keys.getLsbD k.val = true) ∧
    ¬ ∃ k : RegIdx, ((keyed 0xF 0x7FFF).getV 1).toNat = k.val ∧ (keyed 0xF 0x7FFF).input.keys.getLsbD k.val = true := by
  decide
theorem witness_WaitForKeyRepeatsOrReads : base.input.keys = 0 ∧
    { base with input := { base.input with keys := 0x8000 } }.input.keys ≠ 0 ∧
    { base with input := { base.input with keys := 0x8000 } }.input.keys.getLsbD (15 : RegIdx).val = true := by decide

theorem witness_LaunchSatisfiesTheInvariant : 60 ≤ { base.cfg with freq := 60 }.freq := by decide
theorem witness_StepKeepsTheInvariant : (deep 16 base).Inv ∧ ∃ t, step (deep 16 base) = .next t :=
  ⟨⟨by decide, by decide, by decide, fun a h => by rw [List.eq_of_mem_replicate h]; decide, by decide, by decide,
    by decide⟩, _, rfl⟩
theorem witness_OnlyListedRegistersChange :
    ∃ t, exec (.ldImm 15 0xFF) base = .next t ∧ t.getV 15 ≠ base.getV 15 := ⟨_, rfl, by decide⟩
/-- For StateChangesOnlyByItsInstructions, with the three after it. -/
theorem witness_changes_of_memory_and_index : ∃ t, exec (.stRegs 0) ((quirks.setV 0 0xAB).setI 0xFFF) = .next t ∧
    t.peek 0xFFF ≠ ((quirks.setV 0 0xAB).setI 0xFFF).peek 0xFFF ∧ t.i ≠ ((quirks.setV 0 0xAB).setI 0xFFF).i :=
  ⟨_, rfl, by decide, by decide⟩
theorem witness_changes_of_pc_and_stack : ∃ t, exec (.call 0x300#12) base = .next t ∧ t.pc ≠ base.pc ∧
    t.stack ≠ base.stack ∧ t.sp ≠ base.sp := ⟨_, rfl, by decide, by decide, by decide⟩
theorem witness_changes_of_timers : (∃ t, exec (.ldDt 1) (base.setV 1 3) = .next t ∧ t.dt ≠ base.dt) ∧
    ∃ t, exec (.ldSt 1) (base.setV 1 3) = .next t ∧ t.st ≠ base.st := ⟨⟨_, rfl, by decide⟩, _, rfl, by decide⟩
theorem witness_changes_of_display : ∃ t, exec (.drw 0 0 1) base = .next t ∧ t.fb ≠ base.fb ∧
    t.renders ≠ base.renders := by
  refine ⟨_, rfl, fun h => ?_, by decide⟩
  exact absurd (congrArg (fun fb => fbGet fb 0 0) h) (by decide)
theorem witness_ConfigurationIsImmutable : ∃ t, core.run 3 (at200 0x1200) = .next t := ⟨_, rfl⟩
theorem witness_DelayTimerRisesOnlyByFx15 : ∃ t, step ((at200 0xF115).setV 1 3) = .next t ∧
    ((at200 0xF115).setV 1 3).dt.toNat < t.dt.toNat := ⟨_, rfl, by decide⟩
theorem witness_EveryFaultHasItsCause :
    (∃ t, step { base with pc := 0xFFF } = .next t ∧ t.halt = .faulted (.addressOutOfRange 0x1000)) ∧
    (∃ t, step ((at200 0xF055).setI 0x1000) = .next t ∧ t.halt = .faulted (.addressOutOfRange 0x1000)) ∧
    (∃ t, step (at200 0x5121) = .next t ∧ t.halt = .faulted (.unknownOpcode 0x5121)) ∧
    (∃ t, step (deep 16 (at200 0x2300)) = .next t ∧ t.halt = .faulted .stackOverflow) ∧
    ∃ t, step (at200 0x00EE) = .next t ∧ t.halt = .faulted .stackUnderflow :=
  ⟨⟨_, rfl, rfl⟩, ⟨_, rfl, rfl⟩, ⟨_, rfl, rfl⟩, ⟨_, rfl, rfl⟩, _, rfl, rfl⟩

end Sys2Proof.Tests
end

section
/-! PROOFS. The statements of 00_scope.md: which configurations are refused (R10, D4), that the configuration never
changes (R9), and that a launched machine meets the invariant (R9, R41, R70). -/

namespace Sys2Proof.Machine

/-! ### Refusals -/

/-- No arm stops or is refused, whatever the state: a fault an instruction takes is a next state (R237). -/
theorem exec_answers_next (i : Instr) (s : State) : ∃ t, exec i s = .next t := by
  cases i <;> exact ⟨_, rfl⟩

theorem State.runCycle_answers_next (s : State) : ∃ t, s.runCycle = .next t := by
  unfold State.runCycle
  split
  · exact ⟨_, rfl⟩
  · split
    · exact ⟨_, rfl⟩
    · exact exec_answers_next _ _

theorem step_faulted {s : State} {k : FaultKind} (h : s.halt = .faulted k) : step s = .fault (.halted k) := by
  simp [step, h]

theorem step_low_frequency {s : State} (h : s.halt = .running) (hf : s.cfg.freq < 60) :
    step s = .refused (.frequencyBelowSixty s.cfg.freq) := by
  simp [step, h, hf]

theorem step_of_canCycle {s : State} (h : s.canCycle) : step s = s.beginCycle.runCycle := by
  obtain ⟨hrun, hf⟩ := h
  simp [step, hrun, Nat.not_lt.2 hf]

/-- Settles O11: a halted machine faults, a running one below 60 Hz is refused with its frequency, and any other
completes its cycle. -/
theorem onlyLowFrequencyIsRefused : Obligations.OnlyLowFrequencyIsRefused := by
  intro s r
  cases hh : s.halt with
  | faulted k => simp [step_faulted hh]
  | running =>
    by_cases hf : s.cfg.freq < 60
    · simp [step_low_frequency hh hf, hf, eq_comm]
    · obtain ⟨t, ht⟩ := s.beginCycle.runCycle_answers_next
      simp [step_of_canCycle ⟨hh, Nat.not_lt.1 hf⟩, ht, hf]

/-! ### The configuration -/

theorem execRet_keeps_cfg {s t : State} (h : execRet s = .next t) : t.cfg = s.cfg := by
  cases hs : s.stack with
  | nil => simp only [execRet, State.popPc, hs, settle] at h; cases h; rfl
  | cons a rest => simp only [execRet, State.popPc, hs, settle] at h; cases h; rfl

theorem execCall_keeps_cfg {nnn : Addr12} {s t : State} (h : execCall nnn s = .next t) : t.cfg = s.cfg := by
  by_cases hs : s.stack.length < 16
  · rw [execCall, State.push_ok _ hs] at h; cases h; rfl
  · rw [execCall, State.push_full _ (Nat.not_lt.1 hs)] at h; cases h; rfl

theorem execLdBcd_keeps_cfg {x : RegIdx} {s t : State} (h : execLdBcd x s = .next t) : t.cfg = s.cfg := by
  obtain ⟨u, hu, hframe⟩ | ⟨u, k, hu, hframe⟩ := State.storeBytes_frame (bcdDigits (s.getV x)) (s.effAddr 0) s
  all_goals
    have hcfg : u.cfg = s.cfg := by rw [hframe]
    rw [execLdBcd, hu] at h; cases h; exact hcfg

theorem execStRegs_keeps_cfg {x : RegIdx} {s t : State} (h : execStRegs x s = .next t) : t.cfg = s.cfg := by
  obtain ⟨u, hu, hframe⟩ | ⟨u, k, hu, hframe⟩ :=
    State.storeBytes_frame ((regsUpTo x).map s.getV) (s.effAddr 0) s
  all_goals have hcfg : u.cfg = s.cfg := by rw [hframe]
  · rw [execStRegs, hu] at h; cases h; exact (State.bumpIndex_cfg u x).trans hcfg
  · rw [execStRegs, hu] at h; cases h; exact hcfg

theorem execLdRegs_keeps_cfg {x : RegIdx} {s t : State} (h : execLdRegs x s = .next t) : t.cfg = s.cfg := by
  obtain ⟨u, hu, hframe⟩ | ⟨u, k, hu, hframe⟩ := State.loadRegs_frame (regsUpTo x) (s.effAddr 0) s
  all_goals have hcfg : u.cfg = s.cfg := by rw [hframe]
  · rw [execLdRegs, hu] at h; cases h; exact (State.bumpIndex_cfg u x).trans hcfg
  · rw [execLdRegs, hu] at h; cases h; exact hcfg

theorem execDrw_keeps_cfg {x y : RegIdx} {n : Fin 16} {s t : State} (h : execDrw x y n s = .next t) :
    t.cfg = s.cfg := by
  obtain ⟨u, hit, hu, hframe⟩ | ⟨u, k, hu, hframe⟩ :=
    State.drawRows_frame (s.spriteX x) (s.spriteY y) (s.effAddr 0) (List.range n.val) s false
  all_goals
    have hcfg : u.cfg = s.cfg := by rw [hframe]
    rw [execDrw, hu] at h; cases h; exact hcfg

theorem execLdKey_keeps_cfg {x : RegIdx} {s t : State} (h : execLdKey x s = .next t) : t.cfg = s.cfg := by
  cases hk : s.keyAny with
  | none => simp only [execLdKey, hk] at h; cases h; rfl
  | some k => simp only [execLdKey, hk] at h; cases h; rfl

/-- No instruction changes the configuration. The seven named arms may end early or branch on the state; every other
one makes a fixed chain of register updates. -/
theorem exec_keeps_cfg {i : Instr} {s t : State} (h : exec i s = .next t) : t.cfg = s.cfg := by
  cases i with
  | ret => exact execRet_keeps_cfg h
  | call nnn => exact execCall_keeps_cfg h
  | drw x y n => exact execDrw_keeps_cfg h
  | ldKey x => exact execLdKey_keeps_cfg h
  | ldBcd x => exact execLdBcd_keeps_cfg h
  | stRegs x => exact execStRegs_keeps_cfg h
  | ldRegs x => exact execLdRegs_keeps_cfg h
  | _ => cases h; simp

theorem step_keeps_cfg {s t : State} (h : step s = .next t) : t.cfg = s.cfg := by
  obtain ⟨-, ⟨-, rfl⟩ | ⟨-, -, rfl⟩ | ⟨i, -, hi⟩⟩ := step_cases h
  · simp
  · simp
  · simpa using exec_keeps_cfg hi

/-- A run that ends in a next state has taken each of its steps to one. -/
theorem run_succ_eq_next {M : Host.Core} {n : Nat} {s t : M.State} :
    M.run (n + 1) s = .next t ↔ ∃ u, M.step s = .next u ∧ M.run n u = .next t := by
  rw [Host.Core.run]
  cases M.step s <;> simp

/-- What every step keeps holds at the end of every run. -/
theorem run_keeps {M : Host.Core} {P : M.State → Prop} (hstep : ∀ s t, P s → M.step s = .next t → P t) {n : Nat}
    {s t : M.State} (hs : P s) (h : M.run n s = .next t) : P t := by
  induction n generalizing s with
  | zero => cases h; exact hs
  | succ n ih =>
    obtain ⟨u, hu, hrun⟩ := run_succ_eq_next.1 h
    exact ih (hstep s u hs hu) hrun

/-- Settles O53, by the step rule along the run. -/
theorem configurationIsImmutable : Obligations.ConfigurationIsImmutable := by
  intro n s t h
  have hstep (u w : State) (hu : u.cfg = s.cfg) (hw : step u = .next w) : w.cfg = s.cfg :=
    (step_keeps_cfg hw).trans hu
  exact run_keeps (M := core) (P := fun u : State => u.cfg = s.cfg) hstep rfl h

/-! ### The launch -/

/-- The invariant says nothing of `HALT`, and of memory only that it is canonical. -/
theorem State.Inv.of_memory {s : State} {m : Memory} {k : Halt} (h : s.Inv) (hm : Memory.wf s.cfg.font m) :
    State.Inv { s with mem := m, halt := k } :=
  { h with memory := hm }

theorem State.construct_inv (cfg : Config) (fb : Display) (hf : 60 ≤ cfg.freq) : (State.construct cfg fb).Inv where
  memory := Memory.wf_nil _
  spIsSize := rfl
  depth := Nat.zero_le _
  returns := by simp [State.construct, State.reset]
  pcBound := show (0x200 : Word).toNat ≤ 0x10FE by decide
  indexBound := Nat.zero_le _
  tickBound := Nat.div_pos hf (by decide)

theorem State.loadProgram_inv {s : State} (image : List Byte) (h : s.Inv) : (s.loadProgram image).Inv := by
  have hwf := State.storeBytes_wf image 0x200 s h.memory
  unfold State.loadProgram
  obtain ⟨t, ht, hframe⟩ | ⟨t, k, ht, hframe⟩ := State.storeBytes_frame image 0x200 s
  all_goals
    rw [ht] at hwf ⊢
    rw [hframe] at hwf ⊢
    exact h.of_memory hwf

/-- Settles O49: reset is the construction under the default configuration, and a load of any image keeps what the
construction has. -/
theorem launchSatisfiesTheInvariant : Obligations.LaunchSatisfiesTheInvariant :=
  ⟨State.construct_inv defaultConfig Config.displayAtReset (by decide),
    fun cfg fb image hf => State.loadProgram_inv image (State.construct_inv cfg fb hf)⟩

end Sys2Proof.Machine
end

section
/-! PROOFS. The statements of 10_state.md: what every step keeps of the invariant (R25, R28, R30, R31, R34), that the
sound timer influences nothing (R33), which instructions change which piece of state (R22 to R35), and the state after
reset (R41). -/

namespace Sys2Proof.Machine

/-! ### The timer tick -/

theorem State.timerTick_counts {s : State} (h : s.tick + 1 < timerDiv s.cfg) :
    s.timerTick = { s with tick := s.tick + 1 } :=
  if_neg (Nat.not_le.2 h)

theorem State.timerTick_restarts {s : State} (h : timerDiv s.cfg ≤ s.tick + 1) :
    s.timerTick = { s with tick := 0, dt := countDown s.dt, st := countDown s.st } :=
  if_pos h

/-! ### The sound timer: two states that differ in `ST` alone -/

/-- Two outcomes that differ in `ST` alone: next states alike up to `ST`, or the same stop. -/
inductive AlikeButSt : Result → Result → Prop where
  | next {t u : State} (c : Byte) (h : u = t.setSt c) : AlikeButSt (.next t) (.next u)
  | fault (k : Fault) : AlikeButSt (.fault k) (.fault k)
  | refused (k : Refusal) : AlikeButSt (.refused k) (.refused k)

/-- An operation that may end early carries a change of `ST` to both of its ends, if what is done after it does. -/
theorem AlikeButSt.settle_map {α : Type} {b : Byte} {r r' : Except State α} {g : α → α} {f : α → State}
    (hr : r' = (r.map g).mapError (State.setSt · b)) (hf : ∀ a, f (g a) = (f a).setSt b) :
    AlikeButSt (settle (r.map f)) (settle (r'.map f)) := by
  subst hr
  cases r with
  | ok a => exact .next b (hf a)
  | error t => exact .next b rfl

theorem AlikeButSt.settle {b : Byte} {r r' : Except State State}
    (hr : r' = (r.map (State.setSt · b)).mapError (State.setSt · b)) : AlikeButSt (settle r) (settle r') := by
  subst hr
  cases r <;> exact .next b rfl

theorem State.skipIf_setSt (s : State) (b : Byte) (c : Bool) : (s.setSt b).skipIf c = (s.skipIf c).setSt b := by
  cases c <;> rfl

theorem State.writeLogic_setSt (s : State) (b : Byte) (x : RegIdx) (a : Byte) :
    (s.setSt b).writeLogic x a = (s.writeLogic x a).setSt b := by
  by_cases h : s.cfg.qLogic = true
  all_goals
    simp only [State.writeLogic, State.setSt_cfg, h, if_true]
    rfl

theorem State.bumpIndex_setSt (s : State) (b : Byte) (x : RegIdx) :
    (s.setSt b).bumpIndex x = (s.bumpIndex x).setSt b := by
  by_cases h : s.cfg.qLoadStore = true
  all_goals
    simp only [State.bumpIndex, State.setSt_cfg, h, if_true]
    rfl

theorem State.push_setSt (s : State) (b : Byte) (a : Word) :
    (s.setSt b).push a = ((s.push a).map (State.setSt · b)).mapError (State.setSt · b) := by
  by_cases h : s.stack.length < 16
  · rw [State.push_ok a h, State.push_ok (s := s.setSt b) a h]; rfl
  · rw [State.push_full a (Nat.le_of_not_lt h), State.push_full (s := s.setSt b) a (Nat.le_of_not_lt h)]; rfl

theorem State.popPc_setSt (s : State) (b : Byte) :
    (s.setSt b).popPc = (s.popPc.map (State.setSt · b)).mapError (State.setSt · b) := by
  simp only [State.popPc, State.setSt_stack]
  split <;> rfl

theorem State.storeBytes_setSt (b : Byte) (bs : List Byte) (a : Nat) (s : State) :
    State.storeBytes bs a (s.setSt b) =
      ((State.storeBytes bs a s).map (State.setSt · b)).mapError (State.setSt · b) := by
  induction bs generalizing a s with
  | nil => rfl
  | cons c bs ih =>
    by_cases ha : a ≤ 0xFFF
    · simp only [State.storeBytes, State.memWrite_ok c ha]
      exact ih (a + 1) (s.poke a c)
    · simp only [State.storeBytes, State.memWrite_error c (Nat.lt_of_not_le ha)]
      rfl

theorem State.loadRegs_setSt (b : Byte) (rs : List RegIdx) (a : Nat) (s : State) :
    State.loadRegs rs a (s.setSt b) =
      ((State.loadRegs rs a s).map (State.setSt · b)).mapError (State.setSt · b) := by
  induction rs generalizing a s with
  | nil => rfl
  | cons r rs ih =>
    by_cases ha : a ≤ 0xFFF
    · simp only [State.loadRegs, State.memRead_ok ha]
      exact ih (a + 1) (s.setV r (s.peek a))
    · simp only [State.loadRegs, State.memRead_error (Nat.lt_of_not_le ha)]
      rfl

theorem State.drawRow_setSt (b : Byte) (x0 py : Nat) (row : Byte) (cs : List Nat) (acc : State × Bool) :
    State.drawRow x0 py row cs (acc.map (State.setSt · b) id) =
      (State.drawRow x0 py row cs acc).map (State.setSt · b) id := by
  induction cs generalizing acc with
  | nil => rfl
  | cons c cs ih =>
    simp only [State.drawRow]
    split
    · exact ih (acc.1.flipPixel acc.2 (x0 + c) py)
    · exact ih acc

theorem State.drawRows_setSt (b : Byte) (x0 y0 addr : Nat) (rs : List Nat) (acc : State × Bool) :
    State.drawRows x0 y0 addr rs (acc.map (State.setSt · b) id) =
      ((State.drawRows x0 y0 addr rs acc).map (Prod.map (State.setSt · b) id)).mapError (State.setSt · b) := by
  induction rs generalizing acc with
  | nil => rfl
  | cons r rs ih =>
    by_cases ha : addr + r ≤ 0xFFF
    · simp only [State.drawRows, State.memRead_ok ha, State.drawRow_setSt, ih, Prod.map_fst]
      rfl
    · simp only [State.drawRows, State.memRead_error (Nat.lt_of_not_le ha)]
      rfl

theorem execLdKey_alikeButSt (x : RegIdx) (s : State) (b : Byte) :
    AlikeButSt (execLdKey x s) (execLdKey x (s.setSt b)) := by
  have hkey : (s.setSt b).keyAny = s.keyAny := rfl
  unfold execLdKey
  rw [hkey]
  cases s.keyAny <;> exact .next b rfl

/-- No instruction reads `ST`; `Fx18` alone writes it, with a value that does not depend on it (R33, R215). -/
theorem exec_alikeButSt (i : Instr) (s : State) (b : Byte) : AlikeButSt (exec i s) (exec i (s.setSt b)) := by
  cases i with
  | ret => exact .settle (s.popPc_setSt b)
  | call nnn => exact .settle_map (s.push_setSt b s.pc) fun _ => rfl
  | ldBcd x => exact .settle (State.storeBytes_setSt ..)
  | stRegs x => exact .settle_map (State.storeBytes_setSt ..) fun t => t.bumpIndex_setSt b x
  | ldRegs x => exact .settle_map (State.loadRegs_setSt ..) fun t => t.bumpIndex_setSt b x
  | drw x y n => exact .settle_map (State.drawRows_setSt b _ _ _ _ (s, false)) fun _ => rfl
  | seImm | sneImm | seReg | sneReg | skp | sknp => exact .next b (s.skipIf_setSt b _)
  | orReg | andReg | xorReg => exact .next b (s.writeLogic_setSt b _ _)
  | ldKey x => exact execLdKey_alikeButSt x s b
  | ldSt x => exact .next (s.getV x) rfl
  | _ => exact .next b rfl

theorem State.timerTick_setSt (s : State) (b : Byte) : ∃ c, (s.setSt b).timerTick = s.timerTick.setSt c := by
  by_cases h : s.tick + 1 < timerDiv s.cfg
  · exact ⟨b, by rw [State.timerTick_counts h, State.timerTick_counts (s := s.setSt b) h]; rfl⟩
  · have h' : timerDiv s.cfg ≤ s.tick + 1 := Nat.le_of_not_lt h
    exact ⟨countDown b, by rw [State.timerTick_restarts h', State.timerTick_restarts (s := s.setSt b) h']; rfl⟩

theorem State.sampleInput_setSt (s : State) (b : Byte) : (s.setSt b).sampleInput = s.sampleInput.setSt b := by
  simp only [State.sampleInput, State.setSt_inputs]
  split <;> rfl

theorem State.beginCycle_setSt (s : State) (b : Byte) : ∃ c, (s.setSt b).beginCycle = s.beginCycle.setSt c := by
  obtain ⟨c, hc⟩ := s.timerTick_setSt b
  exact ⟨c, by rw [State.beginCycle, hc, State.sampleInput_setSt]; rfl⟩

theorem State.runCycle_alikeButSt (s : State) (b : Byte) : AlikeButSt s.runCycle (s.setSt b).runCycle := by
  have hfetch : (s.setSt b).fetch = s.fetch := rfl
  unfold State.runCycle
  rw [hfetch]
  cases s.fetch with
  | error k => exact .next b rfl
  | ok op =>
    dsimp only
    cases decode op with
    | error e => exact .next b rfl
    | ok i => exact exec_alikeButSt i s.advancePc b

theorem step_alikeButSt (s : State) (b : Byte) : AlikeButSt (step s) (step (s.setSt b)) := by
  cases hh : s.halt with
  | faulted k =>
    rw [step_faulted hh, step_faulted (s := s.setSt b) hh]
    exact .fault _
  | running =>
    by_cases hf : s.cfg.freq < 60
    · rw [step_low_frequency hh hf, step_low_frequency (s := s.setSt b) hh hf]
      exact .refused _
    · obtain ⟨c, hc⟩ := s.beginCycle_setSt b
      have hcan : s.canCycle := ⟨hh, Nat.le_of_not_lt hf⟩
      rw [step_of_canCycle hcan, step_of_canCycle (s := s.setSt b) hcan, hc]
      exact s.beginCycle.runCycle_alikeButSt c

theorem run_alikeButSt (n : Nat) (s : State) (b : Byte) : AlikeButSt (core.run n s) (core.run n (s.setSt b)) := by
  induction n generalizing s b with
  | zero => exact .next b rfl
  | succ n ih =>
    have hstep : AlikeButSt (core.step s) (core.step (s.setSt b)) := step_alikeButSt s b
    simp only [Host.Core.run]
    generalize core.step s = r, core.step (s.setSt b) = r' at hstep
    cases hstep with
    | next c h => subst h; exact ih _ c
    | fault k => exact .fault k
    | refused k => exact .refused k

/-- Settles O56: a run carries a change of `ST` to its end and nowhere else. -/
theorem soundTimerInfluencesNothing : Obligations.SoundTimerInfluencesNothing := by
  intro n s b
  have hrun : AlikeButSt (core.run n s) (core.run n { s with st := b }) := run_alikeButSt n s b
  generalize core.run n s = r, core.run n { s with st := b } = r' at hrun
  cases hrun with
  | next c h => subst h; rfl
  | fault k => rfl
  | refused k => rfl

/-! ### What the arms that may end early or branch can do -/

theorem execRet_cases {s t : State} (h : execRet s = .next t) :
    (∃ a rest, s.stack = a :: rest ∧ t = { s with stack := rest, sp := s.sp - 1, pc := a }) ∨
    (s.stack = [] ∧ t = s.raise .stackUnderflow) := by
  cases hs : s.stack with
  | nil => simp only [execRet, State.popPc, hs, settle] at h; cases h; exact .inr ⟨rfl, rfl⟩
  | cons a rest => simp only [execRet, State.popPc, hs, settle] at h; cases h; exact .inl ⟨a, rest, rfl, rfl⟩

theorem execCall_cases {nnn : Addr12} {s t : State} (h : execCall nnn s = .next t) :
    (s.stack.length < 16 ∧ t = { s with stack := s.pc :: s.stack, sp := s.sp + 1, pc := zextAddr nnn }) ∨
    (16 ≤ s.stack.length ∧ t = s.raise .stackOverflow) := by
  by_cases hs : s.stack.length < 16
  · rw [execCall, State.push_ok _ hs] at h; cases h; exact .inl ⟨hs, rfl⟩
  · rw [execCall, State.push_full _ (Nat.le_of_not_lt hs)] at h; cases h; exact .inr ⟨Nat.le_of_not_lt hs, rfl⟩

theorem execLdKey_cases {x : RegIdx} {s t : State} (h : execLdKey x s = .next t) :
    (s.keyAny = none ∧ t = s.setPc (s.pc - 2)) ∨ ∃ k, s.keyAny = some k ∧ t = s.setV x (BitVec.ofNat 8 k.val) := by
  cases hk : s.keyAny with
  | none => simp only [execLdKey, hk] at h; cases h; exact .inl ⟨rfl, rfl⟩
  | some k => simp only [execLdKey, hk] at h; cases h; exact .inr ⟨k, rfl, rfl⟩

/-- A store of at least one byte changes memory, which it keeps canonical, and faults if it runs past `0xFFF`. -/
theorem State.storeBytes_cases {bs : List Byte} (hbs : bs ≠ []) (a : Nat) (s : State) :
    ∃ m, (Memory.wf s.cfg.font s.mem → Memory.wf s.cfg.font m) ∧
      ((a + bs.length ≤ 0x1000 ∧ State.storeBytes bs a s = .ok { s with mem := m }) ∨
        ∃ k, State.storeBytes bs a s = .error { s with mem := m, halt := .faulted k }) := by
  have hwf := State.storeBytes_wf bs a s
  by_cases h : a + bs.length ≤ 0x1000
  · obtain ⟨t, ht, hframe, -⟩ := State.storeBytes_ok bs a s h
    rw [hframe] at ht
    rw [ht] at hwf
    exact ⟨t.mem, hwf, .inl ⟨h, ht⟩⟩
  · obtain ⟨t, ht, hframe, -⟩ := State.storeBytes_fault bs a s (Nat.lt_of_not_le h) hbs
    rw [hframe] at ht
    rw [ht] at hwf
    exact ⟨t.mem, hwf, .inr ⟨_, ht⟩⟩

theorem execLdBcd_cases {x : RegIdx} {s t : State} (h : execLdBcd x s = .next t) :
    ∃ m k, (Memory.wf s.cfg.font s.mem → Memory.wf s.cfg.font m) ∧ t = { s with mem := m, halt := k } := by
  have hbs : bcdDigits (s.getV x) ≠ [] := List.cons_ne_nil _ _
  obtain ⟨m, hwf, ⟨-, hm⟩ | ⟨k, hm⟩⟩ := State.storeBytes_cases hbs (s.effAddr 0) s
  all_goals
    rw [execLdBcd, hm] at h; cases h; exact ⟨m, _, hwf, rfl⟩

theorem State.effAddr_le_of_transfer {s : State} {x : RegIdx} (h : s.effAddr 0 + (regsUpTo x).length ≤ 0x1000) :
    s.effAddr x.val ≤ 0xFFF := by
  rw [regsUpTo_length] at h
  simp only [State.effAddr] at h ⊢
  omega

theorem execStRegs_cases {x : RegIdx} {s t : State} (h : execStRegs x s = .next t) :
    ∃ m, (Memory.wf s.cfg.font s.mem → Memory.wf s.cfg.font m) ∧
      ((s.effAddr x.val ≤ 0xFFF ∧ t = State.bumpIndex { s with mem := m } x) ∨
        ∃ k, t = { s with mem := m, halt := .faulted k }) := by
  have hbs : (regsUpTo x).map s.getV ≠ [] := by simpa using regsUpTo_ne_nil x
  obtain ⟨m, hwf, ⟨hlen, hm⟩ | ⟨k, hm⟩⟩ := State.storeBytes_cases hbs (s.effAddr 0) s
  · rw [execStRegs, hm] at h; cases h
    rw [List.length_map] at hlen
    exact ⟨m, hwf, .inl ⟨State.effAddr_le_of_transfer hlen, rfl⟩⟩
  · rw [execStRegs, hm] at h; cases h; exact ⟨m, hwf, .inr ⟨k, rfl⟩⟩

theorem execLdRegs_cases {x : RegIdx} {s t : State} (h : execLdRegs x s = .next t) :
    ∃ v : Vector Byte 16, (∀ r, x < r → v.get r = s.getV r) ∧
      ((s.effAddr x.val ≤ 0xFFF ∧ t = State.bumpIndex { s with v := v } x) ∨
        ∃ k, t = { s with v := v, halt := .faulted k }) := by
  have habove {r : RegIdx} (hr : x < r) : r ∉ regsUpTo x := fun hmem => absurd (mem_regsUpTo.1 hmem) (not_le.2 hr)
  by_cases hlen : s.effAddr 0 + (regsUpTo x).length ≤ 0x1000
  · obtain ⟨u, hu, hframe, hget⟩ := State.loadRegs_ok (regsUpTo x) (s.effAddr 0) s (regsUpTo_nodup x) hlen
    rw [hframe] at hu
    rw [execLdRegs, hu] at h; cases h
    exact ⟨u.v, fun r hr => (hget r).trans (if_neg (habove hr)), .inl ⟨State.effAddr_le_of_transfer hlen, rfl⟩⟩
  · obtain ⟨u, hu, hframe, hget⟩ := State.loadRegs_fault (regsUpTo x) (s.effAddr 0) s (regsUpTo_nodup x)
      (Nat.lt_of_not_le hlen) (regsUpTo_ne_nil x)
    rw [hframe] at hu
    rw [execLdRegs, hu] at h; cases h
    exact ⟨u.v, fun r hr => (hget r).trans (if_neg fun hin => habove hr hin.1), .inr ⟨_, rfl⟩⟩

theorem execDrw_cases {x y : RegIdx} {n : Fin 16} {s t : State} (h : execDrw x y n s = .next t) :
    ∃ fb, (∃ b, t = (State.setV { s with fb := fb } vf b).requestRender) ∨
      ∃ k, t = { s with fb := fb, halt := .faulted k } := by
  obtain ⟨u, hit, hu, hframe⟩ | ⟨u, k, hu, hframe⟩ :=
    State.drawRows_frame (s.spriteX x) (s.spriteY y) (s.effAddr 0) (List.range n.val) s false
  all_goals
    rw [hframe] at hu
    rw [execDrw, hu] at h; cases h
  · exact ⟨u.fb, .inl ⟨_, rfl⟩⟩
  · exact ⟨u.fb, .inr ⟨_, rfl⟩⟩

/-! ### The invariant: one rule per update -/

/-- The invariant says nothing of the V registers, the timers, `HALT`, the display and the inputs. -/
theorem State.Inv.frame {s : State} (h : s.Inv) (v : Vector Byte 16) (dt st : Byte) (halt : Halt) (fb : Display)
    (renders : Nat) (input : CycleInput) (inputs : List CycleInput) (cycle : Nat) :
    State.Inv { s with v, dt, st, halt, fb, renders, input, inputs, cycle } :=
  { h with }

theorem State.Inv.writeLogic {s : State} (h : s.Inv) (x : RegIdx) (b : Byte) : (s.writeLogic x b).Inv := by
  unfold State.writeLogic
  split
  · exact h.frame ..
  · exact h.frame ..

theorem State.Inv.setPc {s : State} (h : s.Inv) {a : Word} (ha : a.toNat ≤ 0x10FE) : (s.setPc a).Inv :=
  { h with pcBound := ha }

theorem State.Inv.setI {s : State} (h : s.Inv) {a : Word} (ha : a.toNat ≤ 0x1000) : (s.setI a).Inv :=
  { h with indexBound := ha }

theorem State.pc_add_two_toNat {s : State} (h : s.pc.toNat ≤ 0x1000) : (s.pc + 2).toNat = s.pc.toNat + 2 := by
  bv_omega

theorem State.Inv.advancePc {s : State} (h : s.Inv) (hpc : s.pc.toNat ≤ 0x1000) : s.advancePc.Inv :=
  h.setPc (by rw [State.pc_add_two_toNat hpc]; omega)

theorem State.Inv.skipIf {s : State} (h : s.Inv) (hpc : s.pc.toNat ≤ 0x1000) (c : Bool) : (s.skipIf c).Inv := by
  cases c
  · exact h
  · exact h.advancePc hpc

/-- `I + x + 1` after a transfer that stayed in memory is at most `0x1000` (R25). -/
theorem State.Inv.bumpIndex {s : State} (h : s.Inv) {x : RegIdx} (hx : s.effAddr x.val ≤ 0xFFF) :
    (s.bumpIndex x).Inv := by
  unfold State.bumpIndex
  split
  · refine h.setI ?_
    rw [State.effAddr] at hx
    rw [State.indexAfter, BitVec.toNat_ofNat]
    omega
  · exact h

theorem State.Inv.call {s : State} (h : s.Inv) (hlen : s.stack.length < 16) (hlo : 2 ≤ s.pc.toNat)
    (hhi : s.pc.toNat ≤ 0x1000) {a : Word} (ha : a.toNat ≤ 0x10FE) :
    State.Inv { s with stack := s.pc :: s.stack, sp := s.sp + 1, pc := a } :=
  { h with
    spIsSize := by have hsp := h.spIsSize; simp only [List.length_cons]; bv_omega
    depth := hlen
    returns := List.forall_mem_cons.2 ⟨⟨hlo, hhi⟩, h.returns⟩
    pcBound := ha }

theorem State.Inv.ret {s : State} (h : s.Inv) {a : Word} {rest : List Word} (hs : s.stack = a :: rest) :
    State.Inv { s with stack := rest, sp := s.sp - 1, pc := a } := by
  obtain ⟨hmem, hsp, hdepth, hreturns, hpc, hi, htick⟩ := h
  rw [hs, List.length_cons] at hsp hdepth
  rw [hs, List.forall_mem_cons] at hreturns
  exact
    { memory := hmem, indexBound := hi, tickBound := htick
      spIsSize := by simp only; bv_omega
      depth := Nat.le_of_succ_le hdepth
      returns := hreturns.2
      pcBound := le_trans hreturns.1.2 (by decide) }

/-! ### The invariant: the bounds of the addresses an instruction computes -/

@[simp] theorem zextAddr_toNat (a : Addr12) : (zextAddr a).toNat = a.toNat :=
  BitVec.toNat_setWidth_of_le (by decide)

@[simp] theorem zext16_toNat (b : Byte) : (zext16 b).toNat = b.toNat :=
  BitVec.toNat_setWidth_of_le (by decide)

theorem zextAddr_le (a : Addr12) : (zextAddr a).toNat ≤ 0xFFF := by
  rw [zextAddr_toNat]; omega

/-- The unreduced sum of `Bnnn` is at most `0xFFF + 0xFF` (R139). -/
theorem State.jumpTarget_le (s : State) (a : Addr12) : (s.jumpTarget a).toNat ≤ 0x10FE := by
  unfold State.jumpTarget
  split
  · have hkk := (offsetByte a).isLt
    have hx := (s.getV (offsetReg a)).isLt
    rw [BitVec.toNat_add, zext16_toNat, zext16_toNat]
    omega
  · have ha := a.isLt
    have hx := (s.getV 0).isLt
    rw [BitVec.toNat_add, zextAddr_toNat, zext16_toNat]
    omega

theorem glyphAddr_le (b : Byte) : (glyphAddr b).toNat ≤ 0x4B := by
  have hb : (b &&& 0x0F).toNat ≤ 0x0F := by rw [BitVec.toNat_and]; exact Nat.and_le_right
  rw [glyphAddr, BitVec.toNat_mul, zext16_toNat]
  exact le_trans (Nat.mod_le _ _) (Nat.mul_le_mul_right 5 hb)

theorem State.indexSum_le (s : State) (b : Byte) : (s.indexSum b).toNat ≤ 0xFFF := by
  rw [State.indexSum, BitVec.toNat_ofNat]
  omega

/-! ### The invariant along a step -/

/-- An instruction keeps the invariant from the state after its fetch, where `PC` is the instruction's own address
plus 2. -/
theorem exec_keeps_inv {i : Instr} {s t : State} (hs : s.Inv) (hlo : 2 ≤ s.pc.toNat) (hhi : s.pc.toNat ≤ 0x1000)
    (h : exec i s = .next t) : t.Inv := by
  cases i with
  | ret =>
    obtain ⟨a, rest, hstack, rfl⟩ | ⟨-, rfl⟩ := execRet_cases h
    · exact hs.ret hstack
    · exact hs.frame ..
  | call nnn =>
    obtain ⟨hlen, rfl⟩ | ⟨-, rfl⟩ := execCall_cases h
    · exact hs.call hlen hlo hhi (le_trans (zextAddr_le nnn) (by decide))
    · exact hs.frame ..
  | jp nnn => cases h; exact hs.setPc (le_trans (zextAddr_le nnn) (by decide))
  | jpOff nnn => cases h; exact hs.setPc (s.jumpTarget_le nnn)
  | seImm | sneImm | seReg | sneReg | skp | sknp => cases h; exact hs.skipIf hhi _
  | orReg | andReg | xorReg => cases h; exact hs.writeLogic _ _
  | ldI nnn => cases h; exact hs.setI (le_trans (zextAddr_le nnn) (by decide))
  | addI x => cases h; exact (hs.frame ..).setI (le_trans (s.indexSum_le _) (by decide))
  | ldFont x => cases h; exact hs.setI (le_trans (glyphAddr_le _) (by decide))
  | ldKey x =>
    obtain ⟨-, rfl⟩ | ⟨k, -, rfl⟩ := execLdKey_cases h
    · exact hs.setPc (by bv_omega)
    · exact hs.frame ..
  | ldBcd x =>
    obtain ⟨m, k, hwf, rfl⟩ := execLdBcd_cases h
    exact hs.of_memory (hwf hs.memory)
  | stRegs x =>
    obtain ⟨m, hwf, ⟨hx, rfl⟩ | ⟨k, rfl⟩⟩ := execStRegs_cases h
    · exact (hs.of_memory (k := s.halt) (hwf hs.memory)).bumpIndex hx
    · exact hs.of_memory (hwf hs.memory)
  | ldRegs x =>
    obtain ⟨v, -, ⟨hx, rfl⟩ | ⟨k, rfl⟩⟩ := execLdRegs_cases h
    · exact (hs.frame v ..).bumpIndex hx
    · exact hs.frame ..
  | drw x y n =>
    obtain ⟨fb, ⟨b, rfl⟩ | ⟨k, rfl⟩⟩ := execDrw_cases h
    · exact hs.frame ..
    · exact hs.frame ..
  | _ => cases h; exact hs.frame ..

theorem State.Inv.timerTick {s : State} (h : s.Inv) : s.timerTick.Inv := by
  by_cases hc : s.tick + 1 < timerDiv s.cfg
  · rw [State.timerTick_counts hc]
    exact { h with tickBound := hc }
  · rw [State.timerTick_restarts (Nat.le_of_not_lt hc)]
    exact { h with tickBound := Nat.zero_lt_of_lt h.tickBound }

theorem State.Inv.beginCycle {s : State} (h : s.Inv) : s.beginCycle.Inv := by
  unfold State.beginCycle State.sampleInput
  split
  · exact h.timerTick.frame ..
  · exact h.timerTick.frame ..

/-- Settles O50: the tick keeps the invariant, and the rest of the cycle runs only where the fetch has found `PC` to be
at most `0xFFE`. -/
theorem stepKeepsTheInvariant : Obligations.StepKeepsTheInvariant := by
  intro s t hs h
  have hbegin := hs.beginCycle
  obtain ⟨-, ⟨-, rfl⟩ | ⟨hpc, -, rfl⟩ | ⟨i, ⟨hpc, -⟩, hi⟩⟩ := step_cases h
  · exact hbegin.frame ..
  · exact (hbegin.advancePc (by rw [State.beginCycle_pc]; omega)).frame ..
  · have hnext : s.beginCycle.advancePc.pc.toNat = s.pc.toNat + 2 := by
      rw [State.advancePc_pc, State.beginCycle_pc, State.pc_add_two_toNat (by omega)]
    exact exec_keeps_inv (hbegin.advancePc (by rw [State.beginCycle_pc]; omega)) (by omega) (by omega) hi

/-! ### Which instructions change which piece of state -/

/-- A V register outside the table of R22 and R23 keeps its value. -/
theorem exec_getV_of_not_mayWriteV {i : Instr} {s t : State} {r : RegIdx} (h : exec i s = .next t)
    (hr : ¬ mayWriteV s.cfg r i) : t.getV r = s.getV r := by
  cases i with
  | ldImm | addImm | ldReg | rnd | ldFromDt => cases h; exact State.getV_setV_ne hr
  | addReg | sub | subn | shr | shl =>
    cases h
    obtain ⟨hx, hvf⟩ := not_or.1 hr
    rw [State.getV_writeFlagThen, if_neg hx, if_neg hvf]
  | orReg | andReg | xorReg =>
    cases h
    obtain ⟨hx, hvf⟩ := not_or.1 hr
    rw [State.getV_writeLogic, if_neg hvf, if_neg hx]
  | addI x => cases h; exact State.getV_setV_ne hr
  | drw x y n =>
    obtain ⟨fb, ⟨b, rfl⟩ | ⟨k, rfl⟩⟩ := execDrw_cases h
    · exact State.getV_setV_ne hr
    · rfl
  | ldKey x =>
    obtain ⟨-, rfl⟩ | ⟨k, -, rfl⟩ := execLdKey_cases h
    · rfl
    · exact State.getV_setV_ne hr
  | ldRegs x =>
    obtain ⟨v, hv, ⟨-, rfl⟩ | ⟨k, rfl⟩⟩ := execLdRegs_cases h
    · rw [State.getV_bumpIndex]; exact hv r (not_le.1 hr)
    · exact hv r (not_le.1 hr)
  | ret => obtain ⟨a, rest, -, rfl⟩ | ⟨-, rfl⟩ := execRet_cases h <;> rfl
  | call nnn => obtain ⟨-, rfl⟩ | ⟨-, rfl⟩ := execCall_cases h <;> rfl
  | ldBcd x => obtain ⟨m, k, -, rfl⟩ := execLdBcd_cases h; rfl
  | stRegs x =>
    obtain ⟨m, -, ⟨-, rfl⟩ | ⟨k, rfl⟩⟩ := execStRegs_cases h
    · rw [State.getV_bumpIndex]; rfl
    · rfl
  | _ => cases h; simp

/-- Settles O51, by the contrapositive for one register. -/
theorem onlyListedRegistersChange : Obligations.OnlyListedRegistersChange :=
  fun _ _ _ _ h hne => Classical.not_not.1 fun hr => hne (exec_getV_of_not_mayWriteV h hr)

/-- Settles O52: an arm's end states, written as updates of the state before it, name every field it can change. -/
theorem stateChangesOnlyByItsInstructions : Obligations.StateChangesOnlyByItsInstructions := by
  intro i s t h
  cases i with
  | ret => obtain ⟨a, rest, -, rfl⟩ | ⟨-, rfl⟩ := execRet_cases h <;> simp [State.peek]
  | call nnn => obtain ⟨-, rfl⟩ | ⟨-, rfl⟩ := execCall_cases h <;> simp [State.peek]
  | drw x y n => obtain ⟨fb, ⟨b, rfl⟩ | ⟨k, rfl⟩⟩ := execDrw_cases h <;> simp [State.peek]
  | ldKey x => obtain ⟨-, rfl⟩ | ⟨k, -, rfl⟩ := execLdKey_cases h <;> simp
  | ldBcd x => obtain ⟨m, k, -, rfl⟩ := execLdBcd_cases h; simp
  | stRegs x =>
    obtain ⟨m, -, ⟨-, rfl⟩ | ⟨k, rfl⟩⟩ := execStRegs_cases h
    · simp +contextual
    · simp
  | ldRegs x =>
    obtain ⟨v, -, ⟨-, rfl⟩ | ⟨k, rfl⟩⟩ := execLdRegs_cases h
    · simp +contextual [State.peek]
    · simp [State.peek]
  | _ => cases h; simp

/-! ### Reset -/

theorem Memory.unlisted_glyph (font : Font) (d : Fin 16) (r : Fin 5) :
    Memory.unlisted font (d.val * 5 + r.val) = (font.get d).get r := by
  have hdiv : (d.val * 5 + r.val) / 5 = d.val := by omega
  have hmod : (d.val * 5 + r.val) % 5 = r.val := by omega
  simp only [Memory.unlisted, show d.val * 5 + r.val < 80 by omega, dif_pos, hdiv, hmod, Vector.get_eq_getElem]

theorem Memory.unlisted_above_font (font : Font) {a : Nat} (h : 0x050 ≤ a) : Memory.unlisted font a = 0 :=
  dif_neg (Nat.not_lt.2 h)

/-- Settles O17: with no cell listed, memory reads as its content at reset. -/
theorem resetState : Obligations.ResetState := by
  refine ⟨fun cfg fb => ⟨_, rfl, fun r => ?_, rfl, rfl, rfl, rfl, rfl, rfl, rfl, rfl, rfl, rfl,
    Memory.unlisted_glyph cfg.font, fun a => Memory.unlisted_above_font cfg.font⟩, rfl⟩
  exact Vector.getElem_replicate r.isLt

end Sys2Proof.Machine
end

section
/-! PROOFS. The statements of 20_memory.md: one byte access (R54, R55), the fetch of a word (R57), the program load
(R70), and that a store is seen by the next fetch (R67). -/

namespace Sys2Proof.Machine

/-! ### One byte access -/

/-- Settles O19, on either side of the last address. -/
theorem byteAccessIsRangeChecked : Obligations.ByteAccessIsRangeChecked := by
  refine fun s a b => ⟨fun ha => ⟨State.memRead_ok ha, s.poke a b, State.memWrite_ok b ha, rfl, ?_, fun c hc => ?_⟩,
    fun ha => ⟨State.memRead_error ha, State.memWrite_error b ha⟩⟩
  · rw [State.peek_poke, if_pos rfl]
  · rw [State.peek_poke, if_neg hc]

/-! ### The fetch -/

/-- A word of two bytes has the high byte as its multiple of 256 (R57). -/
theorem wordOfBytes_toNat (hi lo : Byte) : (wordOfBytes hi lo).toNat = hi.toNat * 256 + lo.toNat := by
  rw [wordOfBytes, BitVec.toNat_append, ← Nat.shiftLeft_add_eq_or_of_lt lo.isLt, Nat.shiftLeft_eq]

/-- Settles O6: the fetched word is the one at `PC`, and the first of the two addresses above `0xFFF` faults. -/
theorem fetchIsBigEndianOrFaults : Obligations.FetchIsBigEndianOrFaults := by
  refine fun s => ⟨fun h => ⟨s.wordAtPc, State.fetch_ok h, wordOfBytes_toNat _ _⟩, fun h => ?_, fun h => ?_⟩
  · rw [State.fetch_fault (by omega), h]
    rfl
  · rw [State.fetch_fault (by omega), max_eq_left h]

/-! ### The program load -/

theorem State.loadProgram_of_ok {s t : State} {image : List Byte} (h : s.storeBytes image 0x200 = .ok t) :
    s.loadProgram image = t := by
  rw [State.loadProgram, h]

theorem State.loadProgram_of_error {s t : State} {image : List Byte} (h : s.storeBytes image 0x200 = .error t) :
    s.loadProgram image = t := by
  rw [State.loadProgram, h]

/-- Settles O18: the image is stored like any bytes, and 3584 of them fill memory from `0x200` up. -/
theorem programLoadsAt0x200 : Obligations.ProgramLoadsAt0x200 := by
  refine fun s image => ⟨fun h => ?_, fun h => ?_⟩
  · obtain ⟨t, ht, hframe, hpeek⟩ := State.storeBytes_ok image 0x200 s (by omega)
    exact ⟨t, State.loadProgram_of_ok ht, hframe, hpeek⟩
  · have himage : image ≠ [] := List.ne_nil_of_length_pos (by omega)
    obtain ⟨t, ht, hframe, hpeek⟩ := State.storeBytes_fault image 0x200 s (by omega) himage
    exact ⟨t, State.loadProgram_of_error ht, hframe, hpeek⟩

/-! ### A store and the fetch after it -/

theorem State.effAddr_eq_add (s : State) (j : Nat) : s.effAddr j = s.effAddr 0 + j := rfl

/-- `Fx55` inside the address space: each of V0 to Vx lands at its own address, nothing else in memory changes, and only
`I` may move beside it (R184). -/
theorem execStRegs_ok {x : RegIdx} {s : State} (h : s.effAddr x.val ≤ 0xFFF) :
    ∃ u : State, execStRegs x s = .next (u.bumpIndex x) ∧ u = { s with mem := u.mem } ∧
      (∀ r : RegIdx, r ≤ x → u.peek (s.effAddr r.val) = s.getV r) ∧
      ∀ m, m < s.effAddr 0 ∨ s.effAddr x.val < m → u.peek m = s.peek m := by
  have hlen : ((regsUpTo x).map s.getV).length = x.val + 1 := by rw [List.length_map, regsUpTo_length]
  rw [State.effAddr_eq_add s x.val] at h ⊢
  obtain ⟨u, hu, hframe, hpeek⟩ := State.storeBytes_ok ((regsUpTo x).map s.getV) (s.effAddr 0) s (by omega)
  rw [hlen] at hpeek
  refine ⟨u, by rw [execStRegs, hu]; rfl, hframe, fun r hr => ?_, fun m hm => ?_⟩
  · have hle : r.val ≤ x.val := hr
    rw [State.effAddr_eq_add s r.val, hpeek, if_pos (by omega), Nat.add_sub_cancel_left, regsUpTo_map_getD x _ _ r hr]
  · rw [hpeek, if_neg (by omega)]

/-- Settles O21: the store leaves `PC` where it was, and the two bytes the fetch finds there are two of those stored. -/
theorem storeIsSeenByTheNextFetch : Obligations.StoreIsSeenByTheNextFetch := by
  intro s t x r hr hx hlt hpc ht
  obtain ⟨u, hu, hframe, hpeek, -⟩ := execStRegs_ok hx
  obtain rfl : u.bumpIndex x = t := Host.Outcome.next.inj (hu.symm.trans ht)
  have hupc : (u.bumpIndex x).pc = s.pc := by rw [State.bumpIndex_pc, hframe]
  have hhi : u.peek s.pc.toNat = s.getV r := by rw [hpc]; exact hpeek r hlt.le
  have hlo : u.peek (s.pc.toNat + 1) = s.getV ⟨r.val + 1, hr⟩ := by rw [hpc]; exact hpeek ⟨r.val + 1, hr⟩ hlt
  have hend : s.effAddr r.val < s.effAddr x.val := Nat.add_lt_add_left hlt _
  rw [State.fetch_ok (by rw [hupc]; omega), State.wordAtPc, hupc, State.peek_bumpIndex, State.peek_bumpIndex, hhi, hlo]

end Sys2Proof.Machine
end

section
/-! PROOFS. The statements of 30_encoding.md: the fields (R82, R97), that decoding and encoding invert each other (R90,
R98), and which words are illegal (R86 to R91). -/

namespace Sys2Proof

/-! ### The fields as numbers -/

theorem topOf_toNat (op : Word) : (topOf op).toNat = op.toNat / 0x1000 := by
  have h := op.isLt
  simp only [topOf, BitVec.extractLsb'_toNat, Nat.shiftRight_eq_div_pow]
  omega

theorem kkOf_toNat (op : Word) : (kkOf op).toNat = op.toNat % 0x100 := rfl

theorem nOf_val (op : Word) : (nOf op).val = op.toNat % 0x10 := rfl

/-! ### Fields by mask and shift -/

/-- A field of `len` bits from bit `start` up, by the mask that has its bits and a shift (R82, R97). -/
theorem mask_shift_eq_extract (op : Word) (start len : Nat) (h : start + len ≤ 16) :
    (op &&& (BitVec.allOnes len).setWidth 16 <<< start) >>> start =
      BitVec.ofNat 16 (op.extractLsb' start len).toNat := by
  rw [BitVec.ofNat_toNat]
  refine BitVec.eq_of_getLsbD_eq fun i hi => ?_
  by_cases hlen : i < len
  · simp [hlen, show start + i < 16 by omega, hi]
  · simp [hlen]

/-- Settles O5: each of the six masks has the bits of one field, and the extractor compares a mask with no others. -/
theorem fieldsAreMaskedAndShifted : Obligations.FieldsAreMaskedAndShifted := by
  have hfield (op : Word) (start len : Nat) (h : start + len ≤ 16) :=
    congrArg (Except.ok (ε := DecodeError)) (mask_shift_eq_extract op start len h)
  refine ⟨fun op => ⟨hfield op 12 4 (by decide), hfield op 0 12 (by decide), hfield op 0 8 (by decide),
    hfield op 8 4 (by decide), hfield op 4 4 (by decide), hfield op 0 4 (by decide)⟩, fun op mask hmask => ?_⟩
  simp only [List.mem_cons, List.not_mem_nil, or_false, not_or] at hmask
  simp [extractField, hmask]

/-! ### Decode after encode -/

theorem decodeFamily0_wordNNN {nnn : Addr12} (hcls : nnn ≠ 0x0E0#12) (hret : nnn ≠ 0x0EE#12) :
    decodeFamily0 (wordNNN 0x0#4 nnn) = .ok (.sys nnn) := by
  have hnnn : nnnOf (wordNNN 0x0#4 nnn) = nnn := nnnOf_wordNNN 0x0#4 nnn
  have hE0 : wordNNN 0x0#4 nnn ≠ 0x00E0#16 := fun h => hcls (hnnn.symm.trans (congrArg nnnOf h))
  have hEE : wordNNN 0x0#4 nnn ≠ 0x00EE#16 := fun h => hret (hnnn.symm.trans (congrArg nnnOf h))
  rw [decodeFamily0, if_neg hE0, if_neg hEE, hnnn]

/-- Settles O2, by the format of the instruction: the fields of its word are its operands, and `0nnn` alone shares its
family with words that mean something else. -/
theorem decodeInvertsEncode : Obligations.DecodeInvertsEncode := by
  intro i hwf
  cases i with
  | cls | ret => rfl
  | sys nnn =>
    obtain ⟨hcls, hret⟩ : nnn ≠ 0x0E0#12 ∧ nnn ≠ 0x0EE#12 := by simpa [Instr.wf] using hwf
    simpa [encode, decode] using decodeFamily0_wordNNN hcls hret
  | jp | call | ldI | jpOff => simp [encode, decode]
  | seImm | sneImm | ldImm | addImm | rnd => simp [encode, decode]
  | seReg | sneReg | drw => simp [encode, decode]
  | ldReg | orReg | andReg | xorReg | addReg | sub | shr | subn | shl => simp [encode, decode, decodeFamily8]
  | skp | sknp => simp [encode, decode, decodeFamilyE]
  | ldFromDt | ldDt | ldSt | ldKey | addI | ldFont | ldBcd | stRegs | ldRegs => simp [encode, decode, decodeFamilyF]

/-! ### Encode after decode -/

theorem wordNNN_eq {op : Word} {t : BitVec 4} (ht : topOf op = t) : wordNNN t (nnnOf op) = op := by
  rw [← ht, wordNNN_fields]

theorem wordXKK_eq {op : Word} {t : BitVec 4} {kk : Byte} (ht : topOf op = t) (hk : kkOf op = kk) :
    wordXKK t (xOf op) kk = op := by
  rw [← ht, ← hk, wordXKK_fields]

theorem wordXYN_eq {op : Word} {t : BitVec 4} {n : Fin 16} (ht : topOf op = t) (hn : nOf op = n) :
    wordXYN t (xOf op) (yOf op) n = op := by
  rw [← ht, ← hn, wordXYN_fields]

theorem encode_of_decodeFamily0 {op : Word} {i : Instr} (ht : topOf op = 0x0#4) (h : decodeFamily0 op = .ok i) :
    encode i = op ∧ i.wf = true := by
  unfold decodeFamily0 at h
  split_ifs at h with hcls hret
  · cases h; exact ⟨hcls.symm, rfl⟩
  · cases h; exact ⟨hret.symm, rfl⟩
  · cases h
    have hw : wordNNN 0x0#4 (nnnOf op) = op := wordNNN_eq ht
    have hE0 : nnnOf op ≠ 0x0E0#12 := fun hn => hcls (by rw [← hw, hn]; rfl)
    have hEE : nnnOf op ≠ 0x0EE#12 := fun hn => hret (by rw [← hw, hn]; rfl)
    exact ⟨hw, by simp [Instr.wf, hE0, hEE]⟩

theorem encode_of_decodeFamily8 {op : Word} {i : Instr} (ht : topOf op = 0x8#4) (h : decodeFamily8 op = .ok i) :
    encode i = op ∧ i.wf = true := by
  unfold decodeFamily8 at h
  split at h <;> cases h
  all_goals next hn => exact ⟨wordXYN_eq ht (Fin.ext hn), rfl⟩

theorem encode_of_decodeFamilyE {op : Word} {i : Instr} (ht : topOf op = 0xE#4) (h : decodeFamilyE op = .ok i) :
    encode i = op ∧ i.wf = true := by
  unfold decodeFamilyE at h
  split at h <;> cases h
  all_goals next hk => exact ⟨wordXKK_eq ht (BitVec.eq_of_toNat_eq hk), rfl⟩

theorem encode_of_decodeFamilyF {op : Word} {i : Instr} (ht : topOf op = 0xF#4) (h : decodeFamilyF op = .ok i) :
    encode i = op ∧ i.wf = true := by
  unfold decodeFamilyF at h
  split at h <;> cases h
  all_goals next hk => exact ⟨wordXKK_eq ht (BitVec.eq_of_toNat_eq hk), rfl⟩

/-- Settles O3, by the families of the decoder: a word is rebuilt from its fields, and each row that fixes a field was
chosen by it. (Arm `h_k` of the decoder is the family of top nibble k - 1.) -/
theorem encodeInvertsDecode : Obligations.EncodeInvertsDecode := by
  intro op i h
  have hlt := (topOf op).isLt
  unfold decode at h
  split at h
  case h_1 ht => exact encode_of_decodeFamily0 (BitVec.eq_of_toNat_eq ht) h
  case h_9 ht => exact encode_of_decodeFamily8 (BitVec.eq_of_toNat_eq ht) h
  case h_15 ht => exact encode_of_decodeFamilyE (BitVec.eq_of_toNat_eq ht) h
  case h_16 =>
    have ht : (topOf op).toNat = 0xF := by simp only [imp_false] at *; omega
    exact encode_of_decodeFamilyF (BitVec.eq_of_toNat_eq ht) h
  case h_2 ht | h_3 ht | h_11 ht | h_12 ht => cases h; exact ⟨wordNNN_eq (BitVec.eq_of_toNat_eq ht), rfl⟩
  case h_4 ht | h_5 ht | h_7 ht | h_8 ht | h_13 ht => cases h; exact ⟨wordXKK_eq (BitVec.eq_of_toNat_eq ht) rfl, rfl⟩
  case h_14 ht => cases h; exact ⟨wordXYN_eq (BitVec.eq_of_toNat_eq ht) rfl, rfl⟩
  case h_6 ht | h_10 ht =>
    split_ifs at h with hn
    cases h
    exact ⟨wordXYN_eq (BitVec.eq_of_toNat_eq ht) hn, rfl⟩

/-! ### The illegal words -/

theorem decodeFamily0_ne_error (op : Word) (e : DecodeError) : decodeFamily0 op ≠ .error e := by
  unfold decodeFamily0
  split_ifs <;> simp

theorem decodeFamily8_eq_error_iff {op : Word} :
    decodeFamily8 op = .error (.unknownOpcode op) ↔ 7 < (nOf op).val ∧ (nOf op).val ≠ 0xE := by
  unfold decodeFamily8
  split
  case h_10 => simp only [imp_false, true_iff] at *; omega
  all_goals next hn => simp [hn]

theorem decodeFamilyE_eq_error_iff {op : Word} :
    decodeFamilyE op = .error (.unknownOpcode op) ↔ (kkOf op).toNat ≠ 0x9E ∧ (kkOf op).toNat ≠ 0xA1 := by
  unfold decodeFamilyE
  split
  case h_3 hSkp hSknp => exact iff_of_true rfl ⟨hSkp, hSknp⟩
  all_goals next hk => simp [hk]

theorem decodeFamilyF_eq_error_iff {op : Word} :
    decodeFamilyF op = .error (.unknownOpcode op) ↔
      (kkOf op).toNat ∉ [0x07, 0x0A, 0x15, 0x18, 0x1E, 0x29, 0x33, 0x55, 0x65] := by
  unfold decodeFamilyF
  split
  case h_10 => simp_all
  all_goals next hk => simp [hk]

/-- Settles O4, by the families of the decoder: only 5, 8, 9, E and F hold illegal words, told by a low field.
(Arm `h_k` is the family of top nibble k - 1.) -/
theorem illegalWordsAreTheListedOnes : Obligations.IllegalWordsAreTheListedOnes := by
  intro op
  simp only [← topOf_toNat, ← kkOf_toNat, ← nOf_val]
  have hlt := (topOf op).isLt
  unfold decode
  split
  case h_1 ht => simp [ht, decodeFamily0_ne_error]
  case h_6 ht | h_10 ht => simp [ht]
  case h_9 ht => simp [ht, decodeFamily8_eq_error_iff]
  case h_15 ht => simp [ht, decodeFamilyE_eq_error_iff]
  case h_16 =>
    have ht : (topOf op).toNat = 0xF := by simp only [imp_false] at *; omega
    simp [ht, decodeFamilyF_eq_error_iff]
  all_goals next ht => simp [ht]

/-- Settles O1, by evaluation. -/
theorem specWordsDecode : Obligations.SpecWordsDecode := by
  unfold Obligations.SpecWordsDecode
  and_intros <;> rfl

end Sys2Proof
end

section
/-! PROOFS. The statements of 40_cycle.md: the timer tick (R112), the inputs of a cycle (R113), what a cycle does from the
fetch on (R114 to R118), the halted machine (R119) and the end of a program (R121). -/

namespace Sys2Proof.Machine

/-! ### The timer tick -/

theorem countDown_toNat (b : Byte) : (countDown b).toNat = b.toNat - 1 := by
  by_cases hb : b = 0
  · rw [countDown, if_pos hb, hb]; rfl
  · rw [countDown, if_neg hb]
    have hpos : b.toNat ≠ 0 := fun h => hb (BitVec.eq_of_toNat_eq h)
    exact BitVec.toNat_sub_of_le (y := 1) (BitVec.le_def.2 (Nat.one_le_iff_ne_zero.2 hpos))

/-- Settles O13, by the two branches of the tick. -/
theorem timerTickCountsAndDecrements : Obligations.TimerTickCountsAndDecrements :=
  fun _ => ⟨State.timerTick_counts, fun h => ⟨_, State.timerTick_restarts h, rfl, countDown_toNat _, countDown_toNat _⟩⟩

/-- From a TICK in its range, one tick is counted modulo `TIMER_DIV`, and its carry is what the timers drop by (R112). -/
theorem State.timerTick_carries {s : State} (h : s.tick < timerDiv s.cfg) :
    s.timerTick.tick = (s.tick + 1) % timerDiv s.cfg ∧
    s.timerTick.dt.toNat = s.dt.toNat - (s.tick + 1) / timerDiv s.cfg ∧
    s.timerTick.st.toNat = s.st.toNat - (s.tick + 1) / timerDiv s.cfg := by
  obtain hlt | heq : s.tick + 1 < timerDiv s.cfg ∨ s.tick + 1 = timerDiv s.cfg := Nat.lt_or_eq_of_le h
  · rw [State.timerTick_counts hlt, Nat.mod_eq_of_lt hlt, Nat.div_eq_of_lt hlt]
    exact ⟨rfl, rfl, rfl⟩
  · rw [State.timerTick_restarts heq.ge, heq, Nat.mod_self, Nat.div_self (Nat.zero_lt_of_lt h)]
    exact ⟨rfl, countDown_toNat _, countDown_toNat _⟩

/-- Counting on from a remainder: the carries of both parts are the carries of the whole. -/
theorem div_add_mod_add_div (a k : Nat) {d : Nat} (hd : 0 < d) : a / d + (a % d + k) / d = (a + k) / d := by
  have hsum : a + k = a % d + k + d * (a / d) := by have := Nat.mod_add_div a d; omega
  rw [hsum, Nat.add_mul_div_left _ _ hd, Nat.add_comm]

/-- Settles O14, by induction on the number of ticks: the first carries once at most, and the others count on from its
remainder. -/
theorem timerCadence : Obligations.TimerCadence := by
  intro s k
  induction k generalizing s with
  | zero =>
    intro h
    rw [Nat.add_zero, Nat.mod_eq_of_lt h, Nat.div_eq_of_lt h]
    exact ⟨rfl, rfl, rfl⟩
  | succ k ih =>
    intro h
    have hpos : 0 < timerDiv s.cfg := Nat.zero_lt_of_lt h
    obtain ⟨htick, hdt, hst⟩ := State.timerTick_carries h
    have hrest := ih s.timerTick (by rw [htick, State.timerTick_cfg]; exact Nat.mod_lt _ hpos)
    rw [State.timerTick_cfg, htick, hdt, hst, Nat.mod_add_mod, Nat.sub_sub, Nat.sub_sub,
      div_add_mod_add_div _ _ hpos, Nat.add_assoc, Nat.add_comm 1 k] at hrest
    exact hrest

theorem State.timerTick_frame (s : State) :
    s.timerTick = { s with tick := s.timerTick.tick, dt := s.timerTick.dt, st := s.timerTick.st } := by
  by_cases h : s.tick + 1 < timerDiv s.cfg
  · rw [State.timerTick_counts h]
  · rw [State.timerTick_restarts (Nat.le_of_not_lt h)]

/-! ### The inputs of a cycle -/

theorem State.sampleInput_supplied {s : State} {c : CycleInput} {rest : List CycleInput} (h : s.inputs = c :: rest) :
    s.sampleInput = { s with input := c, inputs := rest, cycle := s.cycle + 1 } := by
  rw [State.sampleInput, h]

theorem State.sampleInput_free {s : State} (h : s.inputs = []) :
    s.sampleInput = { s with input := freeInput s.cycle, cycle := s.cycle + 1 } := by
  rw [State.sampleInput, h]

theorem State.sampleInput_frame (s : State) :
    s.sampleInput = { s with input := s.sampleInput.input, inputs := s.sampleInput.inputs, cycle := s.cycle + 1 } := by
  cases h : s.inputs with
  | nil => rw [State.sampleInput_free h]
  | cons c rest => rw [State.sampleInput_supplied h]

/-- The tick and the sample touch different fields, and neither reads the other's. -/
theorem State.sampleInput_withTimers (s : State) (n : Nat) (dt st : Byte) :
    State.sampleInput { s with tick := n, dt := dt, st := st } =
      { s.sampleInput with tick := n, dt := dt, st := st } := by
  simp only [State.sampleInput]
  cases s.inputs <;> rfl

theorem State.beginCycle_eq (s : State) :
    s.beginCycle = { s.sampleInput with tick := s.timerTick.tick, dt := s.timerTick.dt, st := s.timerTick.st } := by
  rw [← State.sampleInput_withTimers, ← s.timerTick_frame, State.beginCycle]

@[simp] theorem State.beginCycle_input (s : State) : s.beginCycle.input = s.sampleInput.input := by
  rw [s.beginCycle_eq]

@[simp] theorem State.beginCycle_inputs (s : State) : s.beginCycle.inputs = s.sampleInput.inputs := by
  rw [s.beginCycle_eq]

/-- Settles O15, by whether the host has supplied an input. -/
theorem cycleTakesFreshInputs : Obligations.CycleTakesFreshInputs := by
  refine fun s => ⟨fun c rest h => ?_, fun h => ?_, s.beginCycle_cycle⟩
  · rw [State.beginCycle_input, State.beginCycle_inputs, State.sampleInput_supplied h]
    exact ⟨rfl, rfl⟩
  · rw [State.beginCycle_input, State.beginCycle_inputs, State.sampleInput_free h]
    exact ⟨rfl, h⟩

/-! ### The cycle -/

/-- Phases 1 and 2 change the counter, the timers and the record of inputs (R111). -/
theorem State.beginCycle_frame (s : State) :
    s.beginCycle = { s with
      tick := s.timerTick.tick, dt := s.timerTick.dt, st := s.timerTick.st,
      input := s.sampleInput.input, inputs := s.sampleInput.inputs, cycle := s.cycle + 1 } := by
  rw [s.beginCycle_eq, s.sampleInput_frame]

theorem State.about_beginCycle {s : State} {i : Instr} : s.beginCycle.about i ↔ s.about i := by
  rw [State.about, State.beginCycle_pc, State.wordAtPc_beginCycle, State.about]

theorem State.runCycle_of_about {s : State} {i : Instr} (h : s.about i) : s.runCycle = exec i s.advancePc := by
  obtain ⟨hpc, hdec⟩ := h
  rw [State.runCycle, State.fetch_ok hpc]
  simp only [hdec]

theorem State.runCycle_of_pc_above {s : State} (h : 0xFFE < s.pc.toNat) :
    s.runCycle = .next (s.raise (.addressOutOfRange (max s.pc.toNat 0x1000))) := by
  rw [State.runCycle, State.fetch_fault h]

theorem step_of_about {s : State} {i : Instr} (h : s.canCycle) (hi : s.about i) :
    step s = exec i s.beginCycle.advancePc := by
  rw [step_of_canCycle h, State.runCycle_of_about (State.about_beginCycle.2 hi)]

theorem step_of_pc_above {s : State} (h : s.canCycle) (hpc : 0xFFE < s.pc.toNat) :
    step s = .next (s.beginCycle.raise (.addressOutOfRange (max s.pc.toNat 0x1000))) := by
  rw [step_of_canCycle h, State.runCycle_of_pc_above (by rwa [State.beginCycle_pc]), State.beginCycle_pc]

/-- Settles O7: the fetch finds the same word after phases 1 and 2, which leave `PC` and memory. -/
theorem stepRunsTheDecodedInstruction : Obligations.StepRunsTheDecodedInstruction := by
  refine ⟨fun s i => step_of_about, fun s => ?_⟩
  rw [s.beginCycle_frame]
  rfl

/-- Settles O8: the failing address is the greater of `PC` and `0x1000`. -/
theorem fetchFaultHaltsWithPcUnchanged : Obligations.FetchFaultHaltsWithPcUnchanged := by
  refine fun s h => ⟨fun hpc => ?_, fun hpc => ?_⟩
  · rw [step_of_pc_above h (by omega), hpc]
    rfl
  · rw [step_of_pc_above h (by omega), max_eq_left hpc]
    rfl

/-- Settles O12: no phase of a cycle stops. -/
theorem everyCycleEndsInANextState : Obligations.EveryCycleEndsInANextState := by
  intro s h
  rw [step_of_canCycle h]
  exact s.beginCycle.runCycle_answers_next

/-! ### The halted machine and the end of a program -/

/-- Settles O10: a run stops at its first fault, and the first step answers it. -/
theorem haltedMachineTakesNoStep : Obligations.HaltedMachineTakesNoStep := by
  intro s k n h
  have hstep : core.step s = .fault (.halted k) := step_faulted h
  simp only [Host.Core.run, hstep]

/-- At a self-jump the jump undoes the increment of `PC`, and only phases 1 and 2 of the cycle are seen (R121). -/
theorem step_of_atEnd {s : State} (h : s.canCycle) (hend : s.atEnd) : step s = .next s.beginCycle := by
  obtain ⟨nnn, hjp, hpc⟩ := hend
  calc step s = .next (s.beginCycle.setPc (zextAddr nnn)) := step_of_about h hjp
    _ = .next (s.beginCycle.setPc s.beginCycle.pc) := by rw [State.beginCycle_pc, hpc]
    _ = .next s.beginCycle := rfl

theorem State.atEnd_beginCycle {s : State} : s.beginCycle.atEnd ↔ s.atEnd := by
  simp only [State.atEnd, State.about_beginCycle, State.beginCycle_pc]

/-- Settles O16: what is left of the cycle at a self-jump moves neither `PC` nor memory. -/
theorem selfJumpIsTheEnd : Obligations.SelfJumpIsTheEnd := by
  refine fun s h hend => ⟨s.beginCycle, step_of_atEnd h hend, State.atEnd_beginCycle.2 hend, ?_⟩
  rw [s.beginCycle_frame]

end Sys2Proof.Machine
end

section
/-! PROOFS. The statements of 41_flow.md: the return and the call (R131, R134, R140), the no-op (R132), the jumps (R133,
R139) and the skips (R135 to R138). -/

namespace Sys2Proof

/-! ### The words of the rows -/

/-- The word of a well-formed instruction, however it is written, decodes to it. -/
theorem decode_of_eq_encode {op : Word} {i : Instr} (hwf : i.wf = true) (h : op = encode i) : decode op = .ok i := by
  rw [h, decodeInvertsEncode i hwf]

end Sys2Proof

namespace Sys2Proof.Machine

/-! ### Jumps -/

theorem zextAddr_eq_ofNat (nnn : Addr12) : zextAddr nnn = BitVec.ofNat 16 nnn.toNat := (BitVec.ofNat_toNat 16 nnn).symm

theorem offsetReg_val (nnn : Addr12) : (offsetReg nnn).val = nnn.toNat / 0x100 := by
  have hlt := nnn.isLt
  have hval : (offsetReg nnn).val = (nnn.extractLsb' 8 4).toNat := rfl
  rw [hval, BitVec.extractLsb'_toNat, Nat.shiftRight_eq_div_pow]
  omega

theorem offsetByte_toNat (nnn : Addr12) : (offsetByte nnn).toNat = nnn.toNat % 0x100 := rfl

theorem State.jumpTarget_toNat {s : State} (nnn : Addr12) (h : s.cfg.qJump = false) :
    (s.jumpTarget nnn).toNat = nnn.toNat + (s.getV 0).toNat := by
  have hnnn := nnn.isLt
  have hv := (s.getV 0).isLt
  rw [State.jumpTarget, h, if_neg Bool.false_ne_true, BitVec.toNat_add, zextAddr_toNat, zext16_toNat]
  omega

theorem State.jumpTarget_toNat_qJump {s : State} (nnn : Addr12) (h : s.cfg.qJump = true) :
    (s.jumpTarget nnn).toNat = (offsetByte nnn).toNat + (s.getV (offsetReg nnn)).toNat := by
  have hkk := (offsetByte nnn).isLt
  have hv := (s.getV (offsetReg nnn)).isLt
  rw [State.jumpTarget, h, if_pos rfl, BitVec.toNat_add, zext16_toNat, zext16_toNat]
  omega

/-- Settles O29: two summands below 4096 and 256 do not wrap in 16 bits, and the 12 bits of the literal determine x and
kk. -/
theorem jumpWithOffset : Obligations.JumpWithOffset := by
  refine fun nnn s => ⟨decode_of_eq_encode rfl (ofNat_eq_wordNNN 0xB#4 nnn rfl), s.setPc (s.jumpTarget nnn), rfl, rfl,
    State.jumpTarget_toNat nnn, fun hq x kk hxk => ?_⟩
  have hkk := kk.isLt
  have hx : offsetReg nnn = x := Fin.ext (by rw [offsetReg_val]; omega)
  have hk : offsetByte nnn = kk := BitVec.eq_of_toNat_eq (by rw [offsetByte_toNat]; omega)
  rw [State.setPc_pc, State.jumpTarget_toNat_qJump nnn hq, hx, hk]

/-- Settles O24: zero extension keeps the number of the literal. -/
theorem jumpSetsPc : Obligations.JumpSetsPc := by
  refine fun nnn s => ⟨decode_of_eq_encode rfl (ofNat_eq_wordNNN 0x1#4 nnn rfl), ?_⟩
  rw [← zextAddr_eq_ofNat]
  rfl

/-- Settles O23: with the two words of CLS and RET left out, `SYS nnn` is well formed. -/
theorem systemWordDoesNothing : Obligations.SystemWordDoesNothing := by
  refine fun nnn s => ⟨fun hcls hret => ?_, rfl⟩
  have hwf : (Instr.sys nnn).wf = true := by simp [Instr.wf, hcls, hret]
  exact decode_of_eq_encode hwf (ofNat_eq_wordNNN 0x0#4 nnn (by simp))

/-! ### The call and the return -/

theorem execRet_of_cons {s : State} {a : Word} {rest : List Word} (h : s.stack = a :: rest) :
    execRet s = .next { s with pc := a, stack := rest, sp := s.sp - 1 } := by
  simp only [execRet, State.popPc, h, settle]

theorem execRet_of_empty {s : State} (h : s.stack = []) : execRet s = .next (s.raise .stackUnderflow) := by
  simp only [execRet, State.popPc, h, settle]

theorem execCall_of_room {s : State} (nnn : Addr12) (h : s.stack.length < 16) :
    execCall nnn s = .next { s with stack := s.pc :: s.stack, sp := s.sp + 1, pc := zextAddr nnn } := by
  rw [execCall, State.push_ok _ h]
  rfl

theorem execCall_of_full {s : State} (nnn : Addr12) (h : 16 ≤ s.stack.length) :
    execCall nnn s = .next (s.raise .stackOverflow) := by
  rw [execCall, State.push_full _ h]
  rfl

/-- Settles O22, by whether the stack is empty. -/
theorem returnPopsOrUnderflows : Obligations.ReturnPopsOrUnderflows :=
  ⟨rfl, fun _ => ⟨fun _ _ => execRet_of_cons, execRet_of_empty⟩⟩

/-- Settles O25, by whether the stack has room. -/
theorem callPushesOrOverflows : Obligations.CallPushesOrOverflows := by
  refine fun nnn s => ⟨decode_of_eq_encode rfl (ofNat_eq_wordNNN 0x2#4 nnn rfl), fun h => ?_,
    fun h => execCall_of_full nnn h.ge⟩
  rw [← zextAddr_eq_ofNat]
  exact execCall_of_room nnn h

/-- Settles O26: the return pops what the call pushed, and `SP` comes back because adding 1 and taking it away cancel in
8 bits. -/
theorem returnUndoesCall : Obligations.ReturnUndoesCall := by
  intro nnn s t h ht
  obtain rfl := Host.Outcome.next.inj ((execCall_of_room nnn h).symm.trans ht)
  calc execRet { s with stack := s.pc :: s.stack, sp := s.sp + 1, pc := zextAddr nnn }
      = .next { s with sp := s.sp + 1 - 1 } := execRet_of_cons rfl
    _ = .next s := by rw [BitVec.add_sub_cancel]

/-! ### Skips -/

theorem State.skipIf_beq (s : State) (a b : Byte) :
    s.skipIf (a == b) = { s with pc := if a = b then s.pc + 2 else s.pc } := by
  by_cases h : a = b
  · rw [if_pos h, beq_iff_eq.2 h]; rfl
  · rw [if_neg h, beq_eq_false_iff_ne.2 h]; rfl

theorem State.skipIf_bne (s : State) (a b : Byte) :
    s.skipIf (a != b) = { s with pc := if a = b then s.pc else s.pc + 2 } := by
  by_cases h : a = b
  · rw [if_pos h, bne_eq_false_iff_eq.2 h]; rfl
  · rw [if_neg h, bne_iff_ne.2 h]; rfl

/-- Settles O27: each instruction is one skip, on equality or on its negation. -/
theorem skipsOnLiteral : Obligations.SkipsOnLiteral := fun x kk s =>
  ⟨decode_of_eq_encode rfl (ofNat_eq_wordXKK 0x3#4 x kk rfl),
    decode_of_eq_encode rfl (ofNat_eq_wordXKK 0x4#4 x kk rfl),
    congrArg Host.Outcome.next (s.skipIf_beq _ _), congrArg Host.Outcome.next (s.skipIf_bne _ _)⟩

/-- Settles O28, by the same two skips as on a literal. -/
theorem skipsOnRegisters : Obligations.SkipsOnRegisters := fun x y s =>
  ⟨decode_of_eq_encode rfl (ofNat_eq_wordXYN 0x5#4 x y 0 rfl),
    decode_of_eq_encode rfl (ofNat_eq_wordXYN 0x9#4 x y 0 rfl),
    congrArg Host.Outcome.next (s.skipIf_beq _ _), congrArg Host.Outcome.next (s.skipIf_bne _ _)⟩

end Sys2Proof.Machine
end

section
/-! PROOFS. The statements of 42_alu.md: the loads (R152, R154), the additions (R153, R158), the logic operations (R155
to R157), the subtractions (R159, R160), the shifts (R161, R162) and the random byte (R163). -/

namespace Sys2Proof

/-- A word of family 8, written as the number the opcode map gives it, decodes to the instruction of its row. -/
theorem decode_family8 {x y : RegIdx} {i : Instr} (n : Fin 16) (hwf : i.wf = true) (hi : encode i = wordXYN 0x8#4 x y n) :
    decode (BitVec.ofNat 16 (0x8000 + n.val + x.val * 0x100 + y.val * 0x10)) = .ok i := by
  refine decode_of_eq_encode hwf ((ofNat_eq_wordXYN 0x8#4 x y n ?_).trans hi.symm)
  have ht : (0x8#4).toNat = 8 := rfl
  omega

end Sys2Proof

namespace Sys2Proof.Machine

/-! ### A flag, then a result (R165) -/

theorem State.getV_writeFlagThen_same (s : State) (x : RegIdx) (f b : Byte) : (s.writeFlagThen x f b).getV x = b := by
  rw [State.getV_writeFlagThen, if_pos rfl]

theorem State.getV_writeFlagThen_vf (s : State) {x : RegIdx} (f b : Byte) (h : x ≠ vf) :
    (s.writeFlagThen x f b).getV vf = f := by
  rw [State.getV_writeFlagThen, if_neg h.symm, if_pos rfl]

theorem State.getV_writeFlagThen_ne (s : State) {x r : RegIdx} (f b : Byte) (hx : r ≠ x) (hvf : r ≠ vf) :
    (s.writeFlagThen x f b).getV r = s.getV r := by
  rw [State.getV_writeFlagThen, if_neg hx, if_neg hvf]

/-! ### The values of the flags -/

theorem flagByte_decide (p : Prop) [Decidable p] : flagByte (decide p) = if p then 1 else 0 := by
  simp [flagByte]

theorem flagByte_toNat (c : Bool) : (flagByte c).toNat = c.toNat := by
  cases c <;> rfl

theorem shiftRightFlag_toNat (a : Byte) : (shiftRightFlag a).toNat = a.toNat % 2 := by
  rw [shiftRightFlag, flagByte_toNat, BitVec.getLsbD, Nat.toNat_testBit, pow_zero, Nat.div_one]

theorem shiftLeftFlag_toNat (a : Byte) : (shiftLeftFlag a).toNat = a.toNat / 128 := by
  have ha := a.isLt
  rw [shiftLeftFlag, flagByte_toNat, BitVec.getLsbD, Nat.toNat_testBit]
  omega

/-! ### The values of the results (R150) -/

theorem byte_sub_toNat (a b : Byte) : ((a - b).toNat : Int) = (a.toNat - b.toNat : Int) % 256 := by
  have hb := b.isLt
  rw [BitVec.toNat_sub]
  omega

theorem byte_shiftRight_one_toNat (a : Byte) : (a >>> 1).toNat = a.toNat / 2 := by
  rw [BitVec.toNat_ushiftRight, Nat.shiftRight_eq_div_pow, pow_one]

theorem byte_shiftLeft_one_toNat (a : Byte) : (a <<< 1).toNat = a.toNat * 2 % 256 := by
  rw [BitVec.toNat_shiftLeft, Nat.shiftLeft_eq, pow_one]

/-! ### Addition, subtraction and shifts -/

/-- Settles O33: the sum lands after the carry, so it stands in Vx also when x is F. -/
theorem addSetsCarry : Obligations.AddSetsCarry := fun x _ s =>
  ⟨decode_family8 4 rfl rfl, _, rfl, rfl,
    (congrArg BitVec.toNat (s.getV_writeFlagThen_same x _ _)).trans (BitVec.toNat_add _ _),
    fun hx => (s.getV_writeFlagThen_vf _ _ hx).trans (flagByte_decide _),
    fun _ => s.getV_writeFlagThen_ne _ _⟩

/-- The flag, the result and the frame of a subtraction of b from a. -/
theorem State.writeFlagThen_sub (s : State) (x : RegIdx) (a b : Byte) :
    (((s.writeFlagThen x (greaterFlag a b) (a - b)).getV x).toNat : Int) = (a.toNat - b.toNat : Int) % 256 ∧
    (x ≠ vf → (s.writeFlagThen x (greaterFlag a b) (a - b)).getV vf = if a.toNat > b.toNat then 1 else 0) ∧
    ∀ r, r ≠ x → r ≠ vf → (s.writeFlagThen x (greaterFlag a b) (a - b)).getV r = s.getV r := by
  refine ⟨?_, fun hx => ?_, fun r => s.getV_writeFlagThen_ne _ _⟩
  · rw [State.getV_writeFlagThen_same, byte_sub_toNat]
  · rw [State.getV_writeFlagThen_vf _ _ _ hx, greaterFlag, flagByte_decide]

/-- Settles O34: both instructions are one subtraction, with the operands exchanged. -/
theorem subtractSetsGreater : Obligations.SubtractSetsGreater := fun x y s =>
  ⟨decode_family8 5 rfl rfl, decode_family8 7 rfl rfl,
    ⟨_, rfl, rfl, s.writeFlagThen_sub x (s.getV x) (s.getV y)⟩,
    ⟨_, rfl, rfl, s.writeFlagThen_sub x (s.getV y) (s.getV x)⟩⟩

/-- Settles O35: a shift by one halves or doubles, and the bit it loses is the lowest or the highest. -/
theorem shiftsSetTheBitShiftedOut : Obligations.ShiftsSetTheBitShiftedOut := by
  intro x y s o (ho : o = (s.shiftOperand x y).toNat)
  subst ho
  refine ⟨decode_family8 6 rfl rfl, decode_family8 0xE rfl rfl,
    ⟨_, rfl, rfl, ?_, fun hx => ?_, fun r => s.getV_writeFlagThen_ne _ _⟩,
    ⟨_, rfl, rfl, ?_, fun hx => ?_, fun r => s.getV_writeFlagThen_ne _ _⟩⟩
  · rw [State.getV_writeFlagThen_same, byte_shiftRight_one_toNat]
  · rw [State.getV_writeFlagThen_vf _ _ _ hx, shiftRightFlag_toNat]
  · rw [State.getV_writeFlagThen_same, byte_shiftLeft_one_toNat]
  · rw [State.getV_writeFlagThen_vf _ _ _ hx, shiftLeftFlag_toNat]

/-! ### Logic (R155 to R157) -/

theorem State.writeLogic_frame (s : State) (x : RegIdx) (b : Byte) :
    s.writeLogic x b = { s with v := (s.writeLogic x b).v } := by
  unfold State.writeLogic
  split <;> rfl

/-- Without Q_LOGIC every register, and under it every register but VF, holds what the result's own write left. -/
theorem State.getV_writeLogic_kept (s : State) (x : RegIdx) {r : RegIdx} (b : Byte)
    (h : s.cfg.qLogic = false ∨ r ≠ vf) : (s.writeLogic x b).getV r = if r = x then b else s.getV r := by
  rw [State.getV_writeLogic, if_neg (by simpa [imp_iff_not_or] using h)]

/-- Each of the three instructions writes a byte whose bits are its Boolean operation of the operands' bits. -/
theorem exec_logic {x y : RegIdx} {s : State} {i : Instr} {f : Bool → Bool → Bool}
    (h : (i = .orReg x y ∧ f = or) ∨ (i = .andReg x y ∧ f = and) ∨ (i = .xorReg x y ∧ f = xor)) :
    ∃ b, exec i s = .next (s.writeLogic x b) ∧
      ∀ n, b.getLsbD n = f ((s.getV x).getLsbD n) ((s.getV y).getLsbD n) := by
  obtain ⟨rfl, rfl⟩ | ⟨rfl, rfl⟩ | ⟨rfl, rfl⟩ := h
  · exact ⟨_, rfl, fun _ => BitVec.getLsbD_or⟩
  · exact ⟨_, rfl, fun _ => BitVec.getLsbD_and⟩
  · exact ⟨_, rfl, fun _ => BitVec.getLsbD_xor⟩

/-- Settles O32: only the 0 that Q_LOGIC forces into VF comes after the result, and it hides the result exactly when x
is F. -/
theorem logicIsBitwiseAndMayClearVf : Obligations.LogicIsBitwiseAndMayClearVf := by
  refine fun x _ s => ⟨decode_family8 1 rfl rfl, decode_family8 2 rfl rfl, decode_family8 3 rfl rfl, fun i f h => ?_⟩
  obtain ⟨b, hexec, hbits⟩ := exec_logic (s := s) h
  refine ⟨_, hexec, s.writeLogic_frame x b, fun hkept n _ => ?_, fun hq => ?_, fun r hr hkept => ?_⟩
  · rw [s.getV_writeLogic_kept x b hkept, if_pos rfl, hbits]
  · rw [State.getV_writeLogic, if_pos ⟨hq, rfl⟩]
  · rw [s.getV_writeLogic_kept x b hkept, if_neg hr]

/-! ### Loads, the literal addition and the random byte -/

/-- Settles O30: each is one write of Vx. -/
theorem loadsWriteTheirRegister : Obligations.LoadsWriteTheirRegister :=
  ⟨fun x kk s => ⟨decode_of_eq_encode rfl (ofNat_eq_wordXKK 0x6#4 x kk rfl), _, rfl, rfl,
    s.getV_setV_same x kk, fun _ => State.getV_setV_ne⟩,
  fun x _ s => ⟨decode_family8 0 rfl rfl, _, rfl, rfl, s.getV_setV_same x _, fun _ => State.getV_setV_ne⟩⟩

/-- Settles O31: the one write is of Vx, so VF changes only as Vx. -/
theorem addLiteralWrapsWithoutFlag : Obligations.AddLiteralWrapsWithoutFlag := by
  refine fun x kk s => ⟨decode_of_eq_encode rfl (ofNat_eq_wordXKK 0x7#4 x kk rfl), _, rfl, rfl, ?_,
    fun _ => State.getV_setV_ne⟩
  rw [State.getV_setV_same, BitVec.toNat_add]

/-- Settles O36: the byte is `State.input.draw`, of which nothing is assumed. -/
theorem randomByteIsMasked : Obligations.RandomByteIsMasked := by
  refine fun x kk s => ⟨decode_of_eq_encode rfl (ofNat_eq_wordXKK 0xC#4 x kk rfl), _, rfl, rfl, fun n _ => ?_,
    fun _ => State.getV_setV_ne⟩
  rw [State.getV_setV_same, BitVec.getLsbD_and, State.rand8]

end Sys2Proof.Machine
end

section
/-! PROOFS. The statements of 43_index_memory.md: the loads of I (R180, R182), the addition to it (R181), the decimal
digits (R183) and the transfers of V0 to Vx (R184, R185). -/

namespace Sys2Proof

/-- A word of family F, written as the number the opcode map gives it, decodes to the instruction of its row. -/
theorem decode_familyF {x : RegIdx} {i : Instr} (kk : Byte) (hwf : i.wf = true) (hi : encode i = wordXKK 0xF#4 x kk) :
    decode (BitVec.ofNat 16 (0xF000 + kk.toNat + x.val * 0x100)) = .ok i := by
  refine decode_of_eq_encode hwf ((ofNat_eq_wordXKK 0xF#4 x kk ?_).trans hi.symm)
  have ht : (0xF#4).toNat = 15 := rfl
  omega

end Sys2Proof

namespace Sys2Proof.Machine

/-! ### The values of the index register -/

theorem glyphAddr_eq_ofNat (b : Byte) : glyphAddr b = BitVec.ofNat 16 (b.toNat % 16 * 5) := by
  have hnibble : (b &&& 0x0F).toNat = b.toNat % 16 := (BitVec.toNat_and ..).trans (Nat.and_two_pow_sub_one_eq_mod _ 4)
  apply BitVec.eq_of_toNat_eq
  rw [glyphAddr, BitVec.toNat_mul, zext16_toNat, hnibble, BitVec.toNat_ofNat]
  rfl

theorem State.indexSum_toNat (s : State) (b : Byte) : (s.indexSum b).toNat = (s.i.toNat + b.toNat) % 4096 := by
  rw [State.indexSum, BitVec.toNat_ofNat]
  omega

theorem State.bumpIndex_frame (s : State) (x : RegIdx) : s.bumpIndex x = { s with i := (s.bumpIndex x).i } := by
  unfold State.bumpIndex
  split <;> rfl

/-- After a transfer that stayed in memory `I + x + 1` does not wrap in 16 bits. -/
theorem State.bumpIndex_i_toNat {s : State} {x : RegIdx} (h : s.effAddr x.val ≤ 0xFFF) :
    (s.bumpIndex x).i.toNat = if s.cfg.qLoadStore then s.i.toNat + x.val + 1 else s.i.toNat := by
  rw [State.effAddr] at h
  rw [State.bumpIndex_i]
  split
  · rw [State.indexAfter, BitVec.toNat_ofNat]
    omega
  · rfl

/-- Settles O37: each is one write of I. -/
theorem indexLoads : Obligations.IndexLoads :=
  ⟨fun nnn s => ⟨decode_of_eq_encode rfl (ofNat_eq_wordNNN 0xA#4 nnn rfl),
    congrArg (fun a => (.next (s.setI a) : Result)) (zextAddr_eq_ofNat nnn)⟩,
  fun x s => ⟨decode_familyF 0x29 rfl rfl, congrArg (fun a => (.next (s.setI a) : Result)) (glyphAddr_eq_ofNat (s.getV x))⟩⟩

/-- Settles O38: the flag and the sum both take Vx as it was, so x = F adds the old VF. -/
theorem addToIndexReportsOverflow : Obligations.AddToIndexReportsOverflow := by
  refine fun x s => ⟨decode_familyF 0x1E rfl rfl, _, rfl, rfl, s.indexSum_toNat _, ?_, fun r hr => ?_⟩
  · rw [State.getV_setI, State.getV_setV_same, indexFlag, flagByte_decide]
  · rw [State.getV_setI, State.getV_setV_ne hr]

/-! ### The decimal digits -/

theorem bcdDigits_toNat (b : Byte) :
    ((bcdDigits b).getD 0 0).toNat = b.toNat / 100 ∧ ((bcdDigits b).getD 1 0).toNat = b.toNat / 10 % 10 ∧
      ((bcdDigits b).getD 2 0).toNat = b.toNat % 10 := by
  have hb := b.isLt
  refine ⟨(BitVec.toNat_ofNat ..).trans ?_, (BitVec.toNat_ofNat ..).trans ?_, (BitVec.toNat_ofNat ..).trans ?_⟩ <;> omega

/-- `Fx33` inside the address space: each digit lands at its own address and nothing else changes (R183). -/
theorem execLdBcd_ok {x : RegIdx} {s : State} (h : s.effAddr 2 ≤ 0xFFF) :
    ∃ t, execLdBcd x s = .next t ∧ t = { s with mem := t.mem } ∧
      (∀ j, j < 3 → t.peek (s.effAddr j) = (bcdDigits (s.getV x)).getD j 0) ∧
      ∀ m, m < s.effAddr 0 ∨ s.effAddr 2 < m → t.peek m = s.peek m := by
  have hlen : (bcdDigits (s.getV x)).length = 3 := rfl
  rw [s.effAddr_eq_add 2] at h ⊢
  obtain ⟨t, ht, hframe, hpeek⟩ := State.storeBytes_ok (bcdDigits (s.getV x)) (s.effAddr 0) s (by omega)
  refine ⟨t, by rw [execLdBcd, ht]; rfl, hframe, fun j hj => ?_, fun m hm => ?_⟩
  · rw [s.effAddr_eq_add j, hpeek, if_pos (by omega), Nat.add_sub_cancel_left]
  · rw [hpeek, if_neg (by omega)]

/-- Bytes stored from `I` up past `0xFFF`, each by its own offset: those below the failing address are stored (R61,
R186, D13). -/
theorem State.storeBytes_fault_effAddr {bs : List Byte} {s : State} (h : 0x1000 < s.effAddr bs.length) (h0 : bs ≠ []) :
    ∃ t, State.storeBytes bs (s.effAddr 0) s = .error t ∧
      t = { s with mem := t.mem, halt := .faulted (.addressOutOfRange (max (s.effAddr 0) 0x1000)) } ∧
      (∀ j, s.effAddr j ≤ 0xFFF → t.peek (s.effAddr j) = bs.getD j 0) ∧
      ∀ m, m < s.effAddr 0 ∨ 0xFFF < m → t.peek m = s.peek m := by
  obtain ⟨t, ht, hframe, hpeek⟩ := State.storeBytes_fault bs (s.effAddr 0) s h h0
  refine ⟨t, ht, hframe, fun j hj => ?_, fun m hm => ?_⟩
  · rw [s.effAddr_eq_add j] at hj ⊢
    rw [hpeek, if_pos ⟨Nat.le_add_right _ _, hj⟩, Nat.add_sub_cancel_left]
  · rw [hpeek, if_neg (by omega)]

/-- Settles O39: the bytes stored are `bcdDigits`, in the order of their addresses. -/
theorem bcdStoresThreeDigits : Obligations.BcdStoresThreeDigits := by
  rintro x s a rfl
  obtain ⟨hhundreds, htens, hones⟩ := bcdDigits_toNat (s.getV x)
  refine ⟨decode_familyF 0x33 rfl rfl, fun h => ?_, fun h => ?_⟩
  · obtain ⟨t, ht, hframe, hdigit, hkept⟩ := execLdBcd_ok (x := x) h
    exact ⟨t, ht, hframe, (congrArg BitVec.toNat (hdigit 0 (by decide))).trans hhundreds,
      (congrArg BitVec.toNat (hdigit 1 (by decide))).trans htens,
      (congrArg BitVec.toNat (hdigit 2 (by decide))).trans hones, hkept⟩
  · obtain ⟨t, ht, hframe, hdigit, hkept⟩ :=
      State.storeBytes_fault_effAddr (bs := bcdDigits (s.getV x)) (Nat.succ_lt_succ h) (List.cons_ne_nil _ _)
    exact ⟨t, congrArg settle ht, hframe, fun h0 => (congrArg BitVec.toNat (hdigit 0 h0)).trans hhundreds,
      fun h1 => (congrArg BitVec.toNat (hdigit 1 h1)).trans htens, hkept⟩

/-! ### The transfers of V0 to Vx -/

/-- `Fx55` past `0xFFF`: the bytes below the failing address are stored, and `I` stays (R61, R184, D13). -/
theorem execStRegs_fault {x : RegIdx} {s : State} (h : 0xFFF < s.effAddr x.val) :
    ∃ t, execStRegs x s = .next t ∧
      t = { s with mem := t.mem, halt := .faulted (.addressOutOfRange (max (s.effAddr 0) 0x1000)) } ∧
      (∀ r : RegIdx, r ≤ x → s.effAddr r.val ≤ 0xFFF → t.peek (s.effAddr r.val) = s.getV r) ∧
      ∀ m, m < s.effAddr 0 ∨ 0xFFF < m → t.peek m = s.peek m := by
  have hne : (regsUpTo x).map s.getV ≠ [] := by simpa using regsUpTo_ne_nil x
  obtain ⟨t, ht, hframe, hpeek, hkept⟩ :=
    State.storeBytes_fault_effAddr (by rw [List.length_map, regsUpTo_length]; exact Nat.succ_lt_succ h) hne
  refine ⟨t, by rw [execStRegs, ht]; rfl, hframe, fun r hr ha => ?_, hkept⟩
  rw [hpeek _ ha, regsUpTo_map_getD x _ _ r hr]

/-- `Fx65` inside the address space: each of V0 to Vx comes from its own address, the registers above Vx stay, and only
`I` may move beside them (R185). -/
theorem execLdRegs_ok {x : RegIdx} {s : State} (h : s.effAddr x.val ≤ 0xFFF) :
    ∃ u : State, execLdRegs x s = .next (u.bumpIndex x) ∧ u = { s with v := u.v } ∧
      (∀ r, r ≤ x → u.getV r = s.peek (s.effAddr r.val)) ∧ ∀ r, x < r → u.getV r = s.getV r := by
  rw [s.effAddr_eq_add x.val] at h
  obtain ⟨u, hu, hframe, hget⟩ := State.loadRegs_ok (regsUpTo x) (s.effAddr 0) s (regsUpTo_nodup x)
    (by rw [regsUpTo_length]; omega)
  refine ⟨u, by rw [execLdRegs, hu]; rfl, hframe, fun r hr => ?_, fun r hr => ?_⟩
  · rw [hget, if_pos (mem_regsUpTo.2 hr), idxOf_regsUpTo hr, s.effAddr_eq_add r.val]
  · rw [hget, if_neg (mem_regsUpTo.not.2 hr.not_ge)]

/-- `Fx65` past `0xFFF`: the registers below the failing address are loaded, and `I` stays (R61, R185, D13). -/
theorem execLdRegs_fault {x : RegIdx} {s : State} (h : 0xFFF < s.effAddr x.val) :
    ∃ t, execLdRegs x s = .next t ∧
      t = { s with v := t.v, halt := .faulted (.addressOutOfRange (max (s.effAddr 0) 0x1000)) } ∧
      (∀ r : RegIdx, r ≤ x → s.effAddr r.val ≤ 0xFFF → t.getV r = s.peek (s.effAddr r.val)) ∧
      ∀ r : RegIdx, x < r ∨ 0xFFF < s.effAddr r.val → t.getV r = s.getV r := by
  rw [s.effAddr_eq_add x.val] at h
  obtain ⟨t, ht, hframe, hget⟩ := State.loadRegs_fault (regsUpTo x) (s.effAddr 0) s (regsUpTo_nodup x)
    (by rw [regsUpTo_length]; omega) (regsUpTo_ne_nil x)
  refine ⟨t, by rw [execLdRegs, ht]; rfl, hframe, fun r hr ha => ?_, fun r hr => ?_⟩
  · rw [s.effAddr_eq_add r.val] at ha ⊢
    rw [hget, idxOf_regsUpTo hr, if_pos ⟨mem_regsUpTo.2 hr, ha⟩]
  · refine (hget r).trans (if_neg fun ⟨hmem, ha⟩ => ?_)
    have hle : r ≤ x := mem_regsUpTo.1 hmem
    rw [idxOf_regsUpTo hle, ← s.effAddr_eq_add] at ha
    exact hr.elim hle.not_gt ha.not_gt

/-- Settles O40: the bytes are stored in the order of the registers, and I moves after the last. -/
theorem storeRegisters : Obligations.StoreRegisters := by
  refine fun x s => ⟨decode_familyF 0x55 rfl rfl, fun h => ?_, execStRegs_fault⟩
  obtain ⟨u, hu, hframe, hpeek, hkept⟩ := execStRegs_ok h
  obtain ⟨m, rfl⟩ : ∃ m, u = { s with mem := m } := ⟨_, hframe⟩
  refine ⟨_, hu, ?_, fun r hr => ?_, fun c hc => ?_, State.bumpIndex_i_toNat h⟩
  · rw [State.bumpIndex_mem]; exact State.bumpIndex_frame _ x
  · rw [State.peek_bumpIndex, hpeek r hr]
  · rw [State.peek_bumpIndex, hkept c hc]

/-- Settles O41: the registers are loaded in the order of their addresses, and I moves after the last. -/
theorem loadRegisters : Obligations.LoadRegisters := by
  refine fun x s => ⟨decode_familyF 0x65 rfl rfl, fun h => ?_, execLdRegs_fault⟩
  obtain ⟨u, hu, hframe, hloaded, hkept⟩ := execLdRegs_ok h
  obtain ⟨v, rfl⟩ : ∃ v, u = { s with v := v } := ⟨_, hframe⟩
  refine ⟨_, hu, ?_, fun r hr => ?_, fun r hr => ?_, State.bumpIndex_i_toNat h⟩
  · rw [State.bumpIndex_v]; exact State.bumpIndex_frame _ x
  · rw [State.getV_bumpIndex, hloaded r hr]
  · rw [State.getV_bumpIndex, hkept r hr]

/-- Settles O42: with I set again the load reads the addresses the store wrote, and it writes no memory. -/
theorem loadRestoresWhatStoreSaved : Obligations.LoadRestoresWhatStoreSaved := by
  intro x s t u w h hstore hload
  obtain ⟨s', hs', -, hstored, -⟩ := execStRegs_ok h
  obtain rfl : s'.bumpIndex x = t := Host.Outcome.next.inj (hs'.symm.trans hstore)
  obtain ⟨u', hu', hframe, hloaded, hkept⟩ := execLdRegs_ok (s := { s'.bumpIndex x with v := w, i := s.i }) h
  obtain rfl : u'.bumpIndex x = u := Host.Outcome.next.inj (hu'.symm.trans hload)
  refine ⟨fun r hr => ?_, fun r hr => ?_, fun m => ?_⟩
  · calc (u'.bumpIndex x).getV r
      _ = u'.getV r := u'.getV_bumpIndex x r
      _ = (s'.bumpIndex x).peek (s.effAddr r.val) := hloaded r hr
      _ = s'.peek (s.effAddr r.val) := s'.peek_bumpIndex x _
      _ = s.getV r := hstored r hr
  · rw [State.getV_bumpIndex]; exact hkept r hr
  · rw [State.peek_bumpIndex, hframe]; rfl

end Sys2Proof.Machine
end

section
/-! PROOFS. The statements of 44_display.md: the clear (R200) and the sprite (R201 to R203). -/

namespace Sys2Proof.Machine

/-! ### What a sprite does to a pixel and to VF -/

/-- A collision, read off the displays before and after or off the sprite (R201). -/
theorem State.flipsWhen_collision {s t : State} {px py : Nat} {lit : Prop} (h : s.flipsWhen t px py lit) :
    s.pixel px py = true ∧ t.pixel px py = false ↔ lit ∧ s.pixel px py = true := by
  by_cases hlit : lit
  · simp [hlit, h.1 hlit]
  · simp [hlit, h.2 hlit]

theorem State.flipsWhen_twice {s t u : State} {px py : Nat} {lit : Prop} (h : s.flipsWhen t px py lit)
    (h' : t.flipsWhen u px py lit) : u.pixel px py = s.pixel px py := by
  by_cases hlit : lit
  · rw [h'.1 hlit, h.1 hlit, Bool.not_not]
  · rw [h'.2 hlit, h.2 hlit]

theorem flagByte_eq_one_iff (c : Bool) : flagByte c = 1 ↔ c = true := by cases c <;> decide

/-! ### The rows of a sprite -/

/-- The rows of a sprite whose bytes all lie in memory: `spriteLit` names the pixels flipped, and a hit is a flipped
pixel that was on. A sprite of no rows reads nothing, wherever `I` points (item 3 of R203). -/
theorem State.drawRows_sprite_ok (s : State) (x0 y0 : Nat) {n : Nat} (hn : n ≤ 32)
    (h : n = 0 ∨ s.effAddr n ≤ 0x1000) :
    ∃ t hit, State.drawRows x0 y0 (s.effAddr 0) (List.range n) (s, false) = .ok (t, hit) ∧
      t = { s with fb := t.fb } ∧
      (∀ px py, px < 64 → py < 32 → s.flipsWhen t px py (s.spriteLit x0 y0 n px py)) ∧
      (hit = true ↔ ∃ px py, px < 64 ∧ py < 32 ∧ s.spriteLit x0 y0 n px py ∧ s.pixel px py = true) := by
  obtain rfl | h := h
  · exact ⟨s, false, rfl, rfl, by simp [State.spriteLit, State.flipsWhen], by simp [State.spriteLit]⟩
  obtain ⟨t, hit, ht, hframe, hflips, hhit⟩ := State.drawRows_ok x0 y0 (s.effAddr 0) 0 n s false (by omega) h
  refine ⟨t, hit, List.range_eq_range' ▸ ht, hframe, fun px py hpx hpy => ?_, hhit.trans ⟨?_, ?_⟩⟩
  · exact State.flipsWhen_congr (by simp [State.spriteLit, State.effAddr]) (hflips px hpx py hpy)
  · rintro (hfalse | ⟨r, c, -, hr, hc, hbit, hon⟩)
    · cases hfalse
    · exact ⟨(x0 + c) % 64, (y0 + r) % 32, Nat.mod_lt _ (by decide), Nat.mod_lt _ (by decide),
        ⟨r, c, by omega, hc, hbit, rfl, rfl⟩, (s.pixel_mod ..).trans hon⟩
  · rintro ⟨_, _, -, -, ⟨r, c, hr, hc, hbit, rfl, rfl⟩, hon⟩
    exact .inr ⟨r, c, Nat.zero_le r, by omega, hc, hbit, (s.pixel_mod ..).symm.trans hon⟩

/-- The rows of a sprite that runs past `0xFFF`: those whose bytes lie in memory are drawn (R201, D7). -/
theorem State.drawRows_sprite_fault (s : State) (x0 y0 : Nat) {n : Nat} (hn : n ≤ 32) (h0 : n ≠ 0)
    (h : 0x1000 < s.effAddr n) :
    ∃ t, State.drawRows x0 y0 (s.effAddr 0) (List.range n) (s, false) = .error t ∧
      t = { s with fb := t.fb, halt := .faulted (.addressOutOfRange (max (s.effAddr 0) 0x1000)) } ∧
      ∀ px py, px < 64 → py < 32 → s.flipsWhen t px py (s.spriteLit x0 y0 (0x1000 - s.effAddr 0) px py) := by
  obtain ⟨t, ht, hframe, hflips⟩ :=
    State.drawRows_fault x0 y0 (s.effAddr 0) 0 n s false (by omega) h (Nat.pos_of_ne_zero h0)
  refine ⟨t, List.range_eq_range' ▸ ht, hframe, fun px py hpx hpy => State.flipsWhen_congr ?_ (hflips px hpx py hpy)⟩
  rw [s.effAddr_eq_add n] at h
  constructor
  · rintro ⟨r, c, -, -, hr, hlit⟩
    exact ⟨r, c, by omega, hlit⟩
  · rintro ⟨r, c, hr, hlit⟩
    exact ⟨r, c, Nat.zero_le r, by omega, by omega, hlit⟩

/-! ### The instructions -/

/-- Settles O43: CLS replaces the display and nothing else. -/
theorem clearTurnsEveryPixelOff : Obligations.ClearTurnsEveryPixelOff :=
  ⟨decode_of_eq_encode rfl rfl, fun s => ⟨s.clearDisplay, rfl, rfl, fun px py _ _ => s.pixel_clearDisplay px py⟩⟩

/-- `Dxyn` with all its rows in memory: the drawing, then the hit in VF, then one render request (R201). -/
theorem execDrw_ok {x y : RegIdx} {n : Fin 16} {s : State} (h : n.val = 0 ∨ s.effAddr n.val ≤ 0x1000) :
    ∃ t hit, execDrw x y n s = .next t ∧ t = { s with v := t.v, fb := t.fb, renders := s.renders + 1 } ∧
      (∀ px py, px < 64 → py < 32 →
        s.flipsWhen t px py (s.spriteLit (s.spriteX x) (s.spriteY y) n.val px py)) ∧
      (hit = true ↔ ∃ px py, px < 64 ∧ py < 32 ∧ s.spriteLit (s.spriteX x) (s.spriteY y) n.val px py ∧
        s.pixel px py = true) ∧
      t.getV vf = flagByte hit ∧ ∀ r, r ≠ vf → t.getV r = s.getV r := by
  obtain ⟨u, hit, hu, hframe, hflips, hhit⟩ :=
    s.drawRows_sprite_ok (s.spriteX x) (s.spriteY y) (n.isLt.le.trans (by decide)) h
  obtain ⟨fb, rfl⟩ : ∃ fb, u = { s with fb := fb } := ⟨_, hframe⟩
  exact ⟨({ s with fb := fb }.setV vf (flagByte hit)).requestRender, hit, by rw [execDrw, hu]; rfl, rfl, hflips, hhit,
    State.getV_setV_same .., fun r => State.getV_setV_ne⟩

theorem execDrw_fault {x y : RegIdx} {n : Fin 16} {s : State} (h0 : n.val ≠ 0) (h : 0x1000 < s.effAddr n.val) :
    ∃ t, execDrw x y n s = .next t ∧
      t = { s with fb := t.fb, halt := .faulted (.addressOutOfRange (max (s.effAddr 0) 0x1000)) } ∧
      ∀ px py, px < 64 → py < 32 →
        s.flipsWhen t px py (s.spriteLit (s.spriteX x) (s.spriteY y) (0x1000 - s.effAddr 0) px py) := by
  obtain ⟨t, ht, hspec⟩ :=
    s.drawRows_sprite_fault (s.spriteX x) (s.spriteY y) (n.isLt.le.trans (by decide)) h0 h
  exact ⟨t, by rw [execDrw, ht]; rfl, hspec⟩

/-- Settles O44, by whether all rows lie in memory; VF holds the hit, which is a pixel that goes from on to off. -/
theorem drawXorsTheSprite : Obligations.DrawXorsTheSprite := by
  rintro x y n s _ _ rfl rfl
  refine ⟨decode_of_eq_encode rfl (ofNat_eq_wordXYN 0xD#4 x y n rfl), fun h => ?_, execDrw_fault⟩
  obtain ⟨t, hit, ht, hframe, hflips, hhit, hvf, hkept⟩ := execDrw_ok (x := x) (y := y) h
  have hcollide : (∃ px py, px < 64 ∧ py < 32 ∧ s.pixel px py = true ∧ t.pixel px py = false) ↔ hit = true := by
    refine Iff.trans ?_ hhit.symm
    exact exists₂_congr fun px py => and_congr_right fun hpx => and_congr_right fun hpy =>
      State.flipsWhen_collision (hflips px py hpx hpy)
  refine ⟨t, ht, hframe, hflips, fun hon => ?_, fun hoff => ?_, hkept⟩
  · rw [hvf, hcollide.1 hon]; rfl
  · rw [hvf, Bool.eq_false_of_not_eq_true (mt hcollide.2 hoff)]; rfl

/-- Settles O45: the second draw starts at the same place and reads the same bytes, so it flips the same pixels, and it
collides at those the first draw turned on. -/
theorem drawingTwiceRestoresTheDisplay : Obligations.DrawingTwiceRestoresTheDisplay := by
  intro x y n s t u hx hy h ht hu
  obtain ⟨t', -, ht', hframe, hflips, -, -, hkept⟩ := execDrw_ok (x := x) (y := y) h
  obtain rfl := Host.Outcome.next.inj (ht'.symm.trans ht)
  have hi : t'.i = s.i := by rw [hframe]
  have hlit : t'.spriteLit (t'.spriteX x) (t'.spriteY y) = s.spriteLit (s.spriteX x) (s.spriteY y) := by
    rw [State.spriteX, State.spriteY, hkept x hx, hkept y hy, hframe]; rfl
  obtain ⟨u', hit, hu', -, hflips', hhit, hvf, -⟩ := execDrw_ok (x := x) (y := y) (n := n) (s := t') (by
    rwa [State.effAddr, hi])
  obtain rfl := Host.Outcome.next.inj (hu'.symm.trans hu)
  rw [hlit] at hflips' hhit
  refine ⟨fun px py hpx hpy => State.flipsWhen_twice (hflips px py hpx hpy) (hflips' px py hpx hpy), ?_⟩
  rw [hvf, flagByte_eq_one_iff, hhit]
  refine exists₂_congr fun px py => and_congr_right fun hpx => and_congr_right fun hpy => ?_
  rw [and_comm]
  refine and_congr_left fun hpixel => ?_
  rw [(hflips px py hpx hpy).1 hpixel, Bool.not_eq_true']

end Sys2Proof.Machine
end

section
/-! PROOFS. The statements of 45_keypad_timers.md: the skips on a key (R210, R211), the wait for a key (R212), the timer
registers (R213 to R215), and that the delay timer rises only by `Fx15` (R32, R214). -/

namespace Sys2Proof

/-- A word of format `X`, written as the number of its family, low byte and register, decodes to the instruction of its
row. -/
theorem decode_formatX {x : RegIdx} {i : Instr} (t : BitVec 4) (kk : Byte) (hwf : i.wf = true)
    (hi : encode i = wordXKK t x kk) :
    decode (BitVec.ofNat 16 (t.toNat * 0x1000 + kk.toNat + x.val * 0x100)) = .ok i :=
  decode_of_eq_encode hwf ((ofNat_eq_wordXKK t x kk (Nat.add_right_comm ..)).trans hi.symm)

end Sys2Proof

namespace Sys2Proof.Machine

/-! ### The skips on a key -/

/-- A key is down by the whole byte that numbers it, so no byte above `0xF` is one (D8). -/
theorem State.keyDown_eq_true_iff (s : State) (b : Byte) :
    s.keyDown b = true ↔ ∃ k : RegIdx, b.toNat = k.val ∧ s.input.keys.getLsbD k.val = true := by
  rw [State.keyDown, Bool.and_eq_true, decide_eq_true_eq]
  constructor
  · rintro ⟨hle, hdown⟩
    exact ⟨⟨b.toNat, Nat.lt_succ_of_le hle⟩, rfl, hdown⟩
  · rintro ⟨k, hk, hdown⟩
    rw [hk]
    exact ⟨Nat.le_of_lt_succ k.isLt, hdown⟩

theorem execSkp_eq {x : RegIdx} {s : State} {c : Bool} (h : s.keyDown (s.getV x) = c) :
    execSkp x s = .next (s.skipIf c) := by
  rw [execSkp, h]

theorem execSknp_eq {x : RegIdx} {s : State} {c : Bool} (h : s.keyDown (s.getV x) = c) :
    execSknp x s = .next (s.skipIf (!c)) := by
  rw [execSknp, h]

/-- Settles O46: each instruction is one skip, on whether Vx numbers a key that is down or on the negation. -/
theorem keySkipsAreComplements : Obligations.KeySkipsAreComplements := by
  refine fun x s => ⟨decode_formatX 0xE#4 0x9E#8 rfl rfl, decode_formatX 0xE#4 0xA1#8 rfl rfl, fun hkey => ?_,
    fun hkey => ?_⟩
  · have hdown : s.keyDown (s.getV x) = true := (s.keyDown_eq_true_iff _).2 hkey
    exact ⟨execSkp_eq hdown, execSknp_eq hdown⟩
  · have hup : s.keyDown (s.getV x) = false := Bool.eq_false_of_not_eq_true (mt (s.keyDown_eq_true_iff _).1 hkey)
    exact ⟨execSkp_eq hup, execSknp_eq hup⟩

/-! ### The wait for a key -/

/-- A sample with no bit set says that no hex key is down (R38). -/
theorem keys_eq_zero_iff (keys : BitVec 16) : keys = 0 ↔ ∀ k : RegIdx, keys.getLsbD k.val = false := by
  constructor
  · rintro rfl k
    exact BitVec.getLsbD_zero
  · exact fun h => BitVec.eq_of_getLsbD_eq fun n hn => (h ⟨n, hn⟩).trans BitVec.getLsbD_zero.symm

theorem State.keyAny_of_pick_down {s : State} (h : s.input.keys.getLsbD s.input.pick.val = true) :
    s.keyAny = some s.input.pick :=
  if_pos h

theorem State.keyAny_of_pick_up {s : State} (h : ¬ s.input.keys.getLsbD s.input.pick.val = true) :
    s.keyAny = (List.finRange 16).find? (fun k => s.input.keys.getLsbD k.val) :=
  if_neg h

theorem State.keyAny_down {s : State} {k : RegIdx} (h : s.keyAny = some k) : s.input.keys.getLsbD k.val = true := by
  by_cases hpick : s.input.keys.getLsbD s.input.pick.val = true
  · rw [State.keyAny_of_pick_down hpick] at h
    rwa [← Option.some.inj h]
  · rw [State.keyAny_of_pick_up hpick] at h
    exact List.find?_some (p := fun k : RegIdx => s.input.keys.getLsbD k.val) h

theorem State.keyAny_eq_none_iff (s : State) : s.keyAny = none ↔ s.input.keys = 0 := by
  rw [keys_eq_zero_iff]
  constructor
  · intro hnone k
    by_cases hpick : s.input.keys.getLsbD s.input.pick.val = true
    · rw [State.keyAny_of_pick_down hpick] at hnone
      cases hnone
    · rw [State.keyAny_of_pick_up hpick, List.find?_eq_none] at hnone
      exact Bool.eq_false_of_not_eq_true (hnone k (List.mem_finRange k))
  · intro hup
    rw [State.keyAny_of_pick_up (by rw [hup]; exact Bool.false_ne_true), List.find?_eq_none]
    exact fun k _ => by rw [hup]; exact Bool.false_ne_true

theorem execLdKey_of_none {s : State} (x : RegIdx) (h : s.keyAny = none) :
    execLdKey x s = .next (s.setPc (s.pc - 2)) := by
  simp only [execLdKey, h]

theorem execLdKey_of_some {s : State} (x : RegIdx) {k : RegIdx} (h : s.keyAny = some k) :
    execLdKey x s = .next (s.setV x (BitVec.ofNat 8 k.val)) := by
  simp only [execLdKey, h]

/-- The number of a key fits a V register. -/
theorem State.getV_setV_key (s : State) (x k : RegIdx) : ((s.setV x (BitVec.ofNat 8 k.val)).getV x).toNat = k.val := by
  rw [State.getV_setV_same, BitVec.toNat_ofNat]
  omega

/-- Settles O47: `KeyAny()` answers nothing exactly when no key is down, else a key that is down, and the key that
`input.pick` names whenever that one is down. -/
theorem waitForKeyRepeatsOrReads : Obligations.WaitForKeyRepeatsOrReads := by
  refine fun x s => ⟨decode_familyF 0x0A rfl rfl, fun hnone => ?_, fun hsome => ?_, fun k hk => ?_⟩
  · exact execLdKey_of_none x (s.keyAny_eq_none_iff.2 hnone)
  · obtain ⟨k, hk⟩ := Option.ne_none_iff_exists'.1 (mt s.keyAny_eq_none_iff.1 hsome)
    exact ⟨_, execLdKey_of_some x hk, rfl, ⟨k, State.keyAny_down hk, s.getV_setV_key x k⟩, fun _ => State.getV_setV_ne⟩
  · exact ⟨_, execLdKey_of_some x (State.keyAny_of_pick_down hk), State.getV_setV_key _ x k⟩

/-! ### The timers -/

/-- Settles O48: each is one write, of Vx or of a timer. -/
theorem timerRegistersAreReadAndSet : Obligations.TimerRegistersAreReadAndSet := fun x s =>
  ⟨decode_familyF 0x07 rfl rfl, decode_familyF 0x15 rfl rfl, decode_familyF 0x18 rfl rfl,
    ⟨_, rfl, rfl, s.getV_setV_same x s.dt, fun _ => State.getV_setV_ne⟩, rfl, rfl⟩

/-- The tick that opens a cycle leaves the delay timer or counts it down (R112). -/
theorem State.timerTick_dt_le (s : State) : s.timerTick.dt.toNat ≤ s.dt.toNat := by
  by_cases h : s.tick + 1 < timerDiv s.cfg
  · rw [State.timerTick_counts h]
  · rw [State.timerTick_restarts (Nat.le_of_not_lt h), countDown_toNat]
    exact Nat.sub_le _ _

theorem State.beginCycle_dt_le (s : State) : s.beginCycle.dt.toNat ≤ s.dt.toNat := by
  rw [State.beginCycle_dt]
  exact s.timerTick_dt_le

/-- The one instruction that changes the delay timer (R32, R214). -/
theorem exec_dt_changes {i : Instr} {s t : State} (h : exec i s = .next t) (hdt : t.dt ≠ s.dt) : ∃ x, i = .ldDt x := by
  obtain ⟨-, -, -, -, hchange, -⟩ := stateChangesOnlyByItsInstructions i s t h
  exact hchange hdt

/-- Settles O54: the tick only lowers the timer and a fault of the cycle leaves it, so a rise comes from the instruction
that is executed. -/
theorem delayTimerRisesOnlyByFx15 : Obligations.DelayTimerRisesOnlyByFx15 := by
  intro s t h hrise
  have habove : s.beginCycle.dt.toNat < t.dt.toNat := lt_of_le_of_lt s.beginCycle_dt_le hrise
  obtain ⟨-, ⟨-, rfl⟩ | ⟨-, -, rfl⟩ | ⟨i, habout, hi⟩⟩ := step_cases h
  · exact absurd habove (lt_irrefl _)
  · exact absurd habove (lt_irrefl _)
  · have hne : t.dt ≠ s.beginCycle.advancePc.dt := fun heq => absurd (congrArg BitVec.toNat heq) habove.ne'
    obtain ⟨x, rfl⟩ := exec_dt_changes hi hne
    exact ⟨x, habout⟩

end Sys2Proof.Machine
end

section
/-! PROOFS. The statements of 60_exceptions.md: an illegal word (R233, R238), and the cause of every fault that a step
enters (R230 to R236). -/

namespace Sys2Proof.Machine

/-! ### An illegal word -/

/-- Settles O9: of the three ways a cycle can end, the fetch does not fault and no instruction is at `PC`. -/
theorem illegalWordHaltsPastIt : Obligations.IllegalWordHaltsPastIt := by
  intro s h hpc hill
  obtain ⟨t, ht⟩ := everyCycleEndsInANextState s h
  obtain ⟨-, ⟨habove, -⟩ | ⟨-, -, rfl⟩ | ⟨i, ⟨-, hi⟩, -⟩⟩ := step_cases ht
  · exact absurd hpc (Nat.not_le.2 habove)
  · rw [ht, State.advancePc, State.beginCycle_pc]
    rfl
  · exact absurd hi (hill i)

/-! ### What an instruction can raise -/

/-- The instructions that access memory beside the fetch (R231). -/
abbrev AccessesMemory (i : Instr) : Prop :=
  ∃ x y n, i = .drw x y n ∨ i = .ldBcd x ∨ i = .stRegs x ∨ i = .ldRegs x

/-- The faults an instruction can raise in a state, with the condition of each (R231, R234, R236). -/
inductive Raises (s : State) : Instr → FaultKind → Prop where
  | access {i : Instr} (a : Nat) (hi : AccessesMemory i) (ha : 0xFFF < a) : Raises s i (.addressOutOfRange a)
  | overflow (nnn : Addr12) (hfull : 16 ≤ s.stack.length) : Raises s (.call nnn) .stackOverflow
  | underflow (hempty : s.stack = []) : Raises s .ret .stackUnderflow

/-- An accessing instruction leaves `HALT` or enters its one fault, by whether its range `p` lies in memory; the failing
address is the lowest of the range above `0xFFF` (R61). -/
theorem exec_halt_of_access {i : Instr} {s t : State} (p : Prop) (hi : AccessesMemory i)
    (hok : p → ∃ u, exec i s = .next u ∧ u.halt = s.halt)
    (hfault : ¬ p → ∃ u, exec i s = .next u ∧ u.halt = .faulted (.addressOutOfRange (max (s.effAddr 0) 0x1000)))
    (h : exec i s = .next t) : t.halt = s.halt ∨ ∃ k, Raises s i k ∧ t.halt = .faulted k := by
  by_cases hp : p
  · obtain ⟨u, hu, hhalt⟩ := hok hp
    obtain rfl := Host.Outcome.next.inj (hu.symm.trans h)
    exact .inl hhalt
  · obtain ⟨u, hu, hhalt⟩ := hfault hp
    obtain rfl := Host.Outcome.next.inj (hu.symm.trans h)
    exact .inr ⟨_, .access _ hi (lt_of_lt_of_le (by decide) (le_max_right _ _)), hhalt⟩

/-- An instruction leaves `HALT` as it was or enters a fault that is its own to raise. -/
theorem exec_halt {i : Instr} {s t : State} (h : exec i s = .next t) :
    t.halt = s.halt ∨ ∃ k, Raises s i k ∧ t.halt = .faulted k := by
  cases i with
  | ret =>
    obtain ⟨a, rest, -, rfl⟩ | ⟨hempty, rfl⟩ := execRet_cases h
    · exact .inl rfl
    · exact .inr ⟨_, .underflow hempty, rfl⟩
  | call nnn =>
    obtain ⟨-, rfl⟩ | ⟨hfull, rfl⟩ := execCall_cases h
    · exact .inl rfl
    · exact .inr ⟨_, .overflow nnn hfull, rfl⟩
  | drw x y n =>
    refine exec_halt_of_access (n.val = 0 ∨ s.effAddr n.val ≤ 0x1000) ⟨x, y, n, .inl rfl⟩
      (fun hle => ?_) (fun hgt => ?_) h
    · obtain ⟨u, _, hu, hframe, -⟩ := execDrw_ok (x := x) (y := y) hle
      exact ⟨u, hu, by rw [hframe]⟩
    · obtain ⟨hn, hgt⟩ := not_or.1 hgt
      obtain ⟨u, hu, hframe, -⟩ := execDrw_fault (x := x) (y := y) hn (Nat.lt_of_not_le hgt)
      exact ⟨u, hu, congrArg State.halt hframe⟩
  | ldBcd x =>
    refine exec_halt_of_access (s.effAddr 2 ≤ 0xFFF) ⟨x, 0, 0, .inr (.inl rfl)⟩
      (fun hle => ?_) (fun hgt => ?_) h
    · obtain ⟨u, hu, hframe, -⟩ := execLdBcd_ok (x := x) hle
      exact ⟨u, hu, by rw [hframe]⟩
    · obtain ⟨-, -, hfault⟩ := bcdStoresThreeDigits x s _ rfl
      obtain ⟨u, hu, hframe, -⟩ := hfault (Nat.lt_of_not_le hgt)
      exact ⟨u, hu, congrArg State.halt hframe⟩
  | stRegs x =>
    refine exec_halt_of_access (s.effAddr x.val ≤ 0xFFF) ⟨x, 0, 0, .inr (.inr (.inl rfl))⟩
      (fun hle => ?_) (fun hgt => ?_) h
    · obtain ⟨u, hu, hframe, -⟩ := execStRegs_ok (x := x) hle
      exact ⟨u.bumpIndex x, hu, (u.bumpIndex_halt x).trans (by rw [hframe])⟩
    · obtain ⟨u, hu, hframe, -⟩ := execStRegs_fault (x := x) (Nat.lt_of_not_le hgt)
      exact ⟨u, hu, congrArg State.halt hframe⟩
  | ldRegs x =>
    refine exec_halt_of_access (s.effAddr x.val ≤ 0xFFF) ⟨x, 0, 0, .inr (.inr (.inr rfl))⟩
      (fun hle => ?_) (fun hgt => ?_) h
    · obtain ⟨u, hu, hframe, -⟩ := execLdRegs_ok (x := x) hle
      exact ⟨u.bumpIndex x, hu, (u.bumpIndex_halt x).trans (by rw [hframe])⟩
    · obtain ⟨u, hu, hframe, -⟩ := execLdRegs_fault (x := x) (Nat.lt_of_not_le hgt)
      exact ⟨u, hu, congrArg State.halt hframe⟩
  | ldKey x =>
    obtain ⟨-, rfl⟩ | ⟨_, -, rfl⟩ := execLdKey_cases h
    · exact .inl rfl
    · exact .inl rfl
  | _ => cases h; exact .inl (by simp)

/-- Settles O55: the fetch or the decoder raises the fault of the first two ways a step can end. In the third the
machine was running, so the instruction at `PC` raises it; phases 1 and 2 leave the stack it looks at. -/
theorem everyFaultHasItsCause : Obligations.EveryFaultHasItsCause := by
  intro s t k h hk
  obtain ⟨⟨hrun, -⟩, ⟨habove, rfl⟩ | ⟨hpc, ⟨e, he⟩, rfl⟩ | ⟨i, habout, hi⟩⟩ := step_cases h
  · cases hk
    exact .inl ⟨_, rfl, lt_of_lt_of_le (by decide) (le_max_right _ _), .inl habove⟩
  · cases hk
    exact .inr (.inl ⟨rfl, hpc, by simp [he]⟩)
  · obtain hkept | ⟨k', hraises, hk'⟩ := exec_halt hi
    · rw [hk, State.advancePc_halt, State.beginCycle_halt, hrun] at hkept
      cases hkept
    · obtain rfl : k = k' := Halt.faulted.inj (hk.symm.trans hk')
      cases hraises with
      | access a hacc ha =>
        obtain ⟨x, y, n, hi⟩ := hacc
        exact .inl ⟨a, rfl, ha, .inr ⟨i, x, y, n, habout, hi⟩⟩
      | overflow nnn hfull =>
        rw [State.advancePc_stack, State.beginCycle_stack] at hfull
        exact .inr (.inr (.inl ⟨rfl, hfull, nnn, habout⟩))
      | underflow hempty =>
        rw [State.advancePc_stack, State.beginCycle_stack] at hempty
        exact .inr (.inr (.inr ⟨rfl, hempty, habout⟩))

end Sys2Proof.Machine
end

section
/-! PROOFS. The statement of 20_memory.md section 1 that the canonical form of memory is unique: what a canonical memory
reads as decides which cells it lists. -/

namespace Sys2Proof.Machine

/-- Where every address is listed once, lookup finds exactly the listed cells. -/
theorem Memory.lookup_eq_some_iff_mem {m : Memory} (h : m.Pairwise (fun c d => c.1 < d.1)) (a : Nat) (b : Byte) :
    Memory.lookup a m = some b ↔ (a, b) ∈ m := by
  induction m with
  | nil => simp [Memory.lookup]
  | cons c m ih =>
    obtain ⟨k, w⟩ := c
    obtain ⟨hk, hm⟩ := List.pairwise_cons.1 h
    by_cases ha : a = k
    · subst ha
      have hnot : (a, b) ∉ m := fun hmem => lt_irrefl a (hk _ hmem)
      simp [Memory.lookup, hnot, eq_comm]
    · simp [Memory.lookup, ha, ih hm]

/-- A canonical memory lists the cells that read as something other than their reset content, and no other cell. -/
theorem Memory.mem_iff_read {font : Font} {m : Memory} (h : Memory.wf font m) (a : Nat) (b : Byte) :
    (a, b) ∈ m ↔ Memory.read font m a = b ∧ b ≠ Memory.unlisted font a := by
  obtain ⟨hrising, hdiffer⟩ := h
  have hlookup := Memory.lookup_eq_some_iff_mem hrising a
  unfold Memory.read
  constructor
  · intro hmem
    obtain ⟨-, hb⟩ := hdiffer _ hmem
    exact ⟨by rw [(hlookup b).2 hmem, Option.getD_some], hb⟩
  · rintro ⟨hread, hb⟩
    cases hl : Memory.lookup a m with
    | none => rw [hl, Option.getD_none] at hread; exact absurd hread.symm hb
    | some c => rw [hl, Option.getD_some] at hread; exact hread ▸ (hlookup c).1 hl

/-- Settles O20: the two memories list the same cells, and both list them by rising address. -/
theorem memoriesThatReadAlikeAreEqual : Obligations.MemoriesThatReadAlikeAreEqual := by
  intro font m m' hm hm' hread
  have hcells : ∀ c : Host.Cell, c ∈ m ↔ c ∈ m' := fun ⟨a, b⟩ => by
    rw [Memory.mem_iff_read hm, Memory.mem_iff_read hm', hread a]
  obtain ⟨hrising, -⟩ := hm
  obtain ⟨hrising', -⟩ := hm'
  exact hrising.eq_of_mem_iff hrising' hcells

end Sys2Proof.Machine
end
